-- ==== Sys2Proof/Word.lean ====
section
/-! DEFINITION. The plain values of the specification: bytes, 16-bit values, levels, lines, line events, frames,
windows and GRAM writes (00_scope.md R16, R17; 10_state.md R21, R31; 30_encoding.md R74; 20_memory.md R50). -/

namespace Sys2Proof

/-- One byte: an opcode, a parameter or half a pixel (R8). -/
abbrev Byte := BitVec 8

/-- A window coordinate, a colour or an operand latch: 16 bits without sign (R8, R16). -/
abbrev Half := BitVec 16

/-- The request word `op ‖ a ‖ b ‖ c ‖ d` (R78). -/
abbrev RequestWord := BitVec 67

/-- The 9-bit symbol `m ‖ b` of a frame (R74). -/
abbrev SymbolWord := BitVec 9

/-- A line level: `false` is 0 (low), `true` is 1 (high) (R16). -/
abbrev Level := Bool

/-- The six lines in the Device Handle's order (R21). -/
inductive Line where
  | rst
  | cs
  | rs
  | data
  | clk
  | bl
  deriving DecidableEq, Repr

/-- The six lines in the handle's order RST, CS, RS, DATA, CLK, BL (R15). -/
def Line.all : List Line := [.rst, .cs, .rs, .data, .clk, .bl]

/-- A micro-operation, which is also the event it appends to `LT` (R17, R19). -/
inductive MicroOp where
  /-- `Set(n, v)`: the line write `L[n] <- v`. -/
  | set (n : Line) (v : Level)
  /-- `Wait(k)`: at least `k` time-units pass. -/
  | wait (k : Nat)
  deriving DecidableEq, Repr

/-- A frame `(m, b)`: mode 0 is command, mode 1 is data (R19, R74). -/
structure Frame where
  mode : Level
  byte : Byte
  deriving DecidableEq, Repr

/-- The four values `(ca_s, ca_e, pa_s, pa_e)` of the retained window (R31). -/
structure Window where
  caStart : Half
  caEnd : Half
  paStart : Half
  paEnd : Half
  deriving DecidableEq, Repr

/-- One GRAM pixel written: its coordinate on the axis of column-address-set, its coordinate on the axis of
page-address-set, and the 16-bit value it then holds (R50). -/
structure GramWrite where
  ca : Half
  pa : Half
  value : Half
  deriving DecidableEq, Repr

end Sys2Proof
end

