-- ==== Sys2Proof/Config.lean ====
section
/-! DEFINITION. What an implementation fixes and the specification leaves open (00_scope.md R9 to R15, 20_memory.md
R66), and the free values. Every open point is an `opaque` constant without a body, so a statement holds for every
build. `TIME_UNIT` (R10) and `PINMAP` (R14) are used by no rule of the model and are left out (log entries 18, 19). -/

namespace Sys2Proof

/-- The build-time parameters an expansion reads (R120). A structure, so that an expansion can be computed for any
build, the one of the test vectors among them. -/
structure Config.Params where
  tStab : Nat
  tPre : Nat
  tRstLow : Nat
  tRstPost : Nat
  tSlpOut : Nat
  vcomH : Byte
  vcomL : Byte
  madctl : Byte
  eagerRamwr : Bool
  lineOrder : List Line
  deriving DecidableEq, Repr

/-- A build the specification admits: the waits meet their minima (R9, R195) and `INIT_LINE_ORDER` is a permutation of
the six lines (R15). -/
abbrev Config.Params.legal (p : Config.Params) : Prop :=
  15 ≤ p.tStab ∧ 15 ≤ p.tRstLow ∧ 15 ≤ p.tRstPost ∧ 10 ≤ p.tSlpOut ∧ p.lineOrder.Perm Line.all

/-- `T_STAB − 15`, any natural number (R9). DESIGN CHOICE, safe (log entry 9). -/
opaque Config.tStabOver : Nat
/-- `T_PRE`, any natural number (R9). DESIGN CHOICE, safe (log entry 9). -/
opaque Config.tPre : Nat
/-- `T_RSTLOW − 15`, any natural number (R9). DESIGN CHOICE, safe (log entry 9). -/
opaque Config.tRstLowOver : Nat
/-- `T_RSTPOST − 15`, any natural number (R9). DESIGN CHOICE, safe (log entry 9). -/
opaque Config.tRstPostOver : Nat
/-- `T_SLPOUT − 10`, any natural number (R9). DESIGN CHOICE, safe (log entry 9). -/
opaque Config.tSlpOutOver : Nat
/-- `VCOM_H`, open (R11). -/
opaque Config.vcomH : Byte
/-- `VCOM_L`, open (R11). -/
opaque Config.vcomL : Byte
/-- `MADCTL`, open (R12). -/
opaque Config.madctl : Byte
/-- `EAGER_RAMWR` (R13). DESIGN CHOICE, safe: open here, so that both variants are covered (log entry 9). -/
opaque Config.eagerRamwr : Bool
/-- A code for `INIT_LINE_ORDER` (R15), read by `pickOrder`. DESIGN CHOICE, safe (log entry 10). -/
opaque Config.lineOrderCode : List Nat

/-- `GramStore(mac, win, k, c)` (R66): the GRAM pixels that the k-th pixel of colour c changes, under the retained
window and the last memory-access-control byte. Open. DESIGN CHOICE on the form of its answer, safe (log entry 11). -/
opaque Config.gramStore (mac : Option Byte) (win : Option Window) (k : Nat) (c : Half) : List GramWrite

/-- The GRAM pixels that the n-th reset pulse leaves, the ones before it given as (address, value) pairs: the
specification does not say what the controller keeps (42_controller_commands.md R141, 60_exceptions.md R183) and has
nobody assume that GRAM survives (91_not_in_source.md N11). DESIGN CHOICE on the form of its answer, safe (log entry
27). -/
opaque Config.gramAfterReset (n : Nat) (before : List (Nat × Half)) : List GramWrite

/-- The level that the n-th read of an undriven line draws, any of 0 or 1 (R24, 93 S5). DESIGN CHOICE, safe (log
entry 5). -/
opaque Config.draw : Nat → Level

/-- The value of parameter byte `i` of a command whose collected list is too short to have one: no run reaches such
a read, and the specification gives no value. DESIGN CHOICE, safe (log entry 15). -/
opaque Config.missingByte : Nat → Byte

end Sys2Proof
end

