-- ==== Sys2Proof/Syntax.lean ====
section
/-! DEFINITION. The instructions: one constructor per row of spec/opcode_table.json, 7 rows of request words
(30_encoding.md R79, R80) and 12 rows of frame symbols (R76, R151 to R154). -/

namespace Sys2Proof

/-- The six request operations (R1, R79): what `cur` names while one is in progress (R25). -/
inductive Operation where
  | writeByte
  | writeCommand
  | writeData
  | initDisplay
  | setAddressWindow
  | drawPixel
  deriving DecidableEq, Repr

/-- Which of the three data rows a data symbol is: the three have the same bits and are told apart by the tracker's
state only (opcode_table.json, notes of DATA_PARAMETER, DATA_PIXEL, DATA_STRAY). -/
inductive DataKind where
  | parameter
  | pixel
  | stray
  deriving DecidableEq, Repr

/-- One constructor per row of the opcode table. A request carries its ignored operands too, because acceptance loads
all four latches (R27, R78) (log entry 22). -/
inductive Instr where
  /-- `WRITE_BYTE`, op 0: `writeByte(value)` (R100). -/
  | writeByte (value : Byte) (b c d : Half)
  /-- `WRITE_COMMAND`, op 1: `writeCommand(opcode)` (R101). -/
  | writeCommand (opcode : Byte) (b c d : Half)
  /-- `WRITE_DATA`, op 2: `writeData(byte)` (R102). -/
  | writeData (byte : Byte) (b c d : Half)
  /-- `INITIALIZE`, op 3: `initialize()` (R120). -/
  | initDisplay (a b c d : Half)
  /-- `SET_ADDRESS_WINDOW`, op 4 (R130). -/
  | setAddressWindow (rowStart rowEnd colStart colEnd : Half)
  /-- `DRAW_PIXEL`, op 5 (R132). -/
  | drawPixel (x y color d : Half)
  /-- `RESERVED_REQ_6_7`, op 6 or 7 (R80). -/
  | reservedReq (op : BitVec 3) (a b c d : Half)
  /-- `VCOM_CONTROL`, symbol 0x0C5 (R143). -/
  | vcomControl
  /-- `MEMORY_ACCESS_CONTROL`, symbol 0x036 (R144). -/
  | memoryAccessControl
  /-- `PIXEL_FORMAT_SET`, symbol 0x03A (R145). -/
  | pixelFormatSet
  /-- `SLEEP_OUT`, symbol 0x011 (R146). -/
  | sleepOut
  /-- `DISPLAY_ON`, symbol 0x029 (R147). -/
  | displayOn
  /-- `COLUMN_ADDRESS_SET`, symbol 0x02A (R148). -/
  | columnAddressSet
  /-- `PAGE_ADDRESS_SET`, symbol 0x02B (R149). -/
  | pageAddressSet
  /-- `MEMORY_WRITE`, symbol 0x02C (R150). -/
  | memoryWrite
  /-- `DATA_PARAMETER`, a data symbol while `need > 0` (R151). -/
  | dataParameter (b : Byte)
  /-- `DATA_PIXEL`, a data symbol while `need = 0` and `phase = Writing` (R152). -/
  | dataPixel (b : Byte)
  /-- `DATA_STRAY`, a data symbol that nothing receives (R153). -/
  | dataStray (b : Byte)
  /-- `COMMAND_UNLISTED`, any other command symbol (R154). -/
  | commandUnlisted (opcode : Byte)
  deriving DecidableEq, Repr

/-- The instruction is a request (format REQ of the table), not a frame (format FRAME9). -/
def Instr.isRequest : Instr → Bool
  | .writeByte _ _ _ _ => true
  | .writeCommand _ _ _ _ => true
  | .writeData _ _ _ _ => true
  | .initDisplay _ _ _ _ => true
  | .setAddressWindow _ _ _ _ => true
  | .drawPixel _ _ _ _ => true
  | .reservedReq _ _ _ _ _ => true
  | .vcomControl => false
  | .memoryAccessControl => false
  | .pixelFormatSet => false
  | .sleepOut => false
  | .displayOn => false
  | .columnAddressSet => false
  | .pageAddressSet => false
  | .memoryWrite => false
  | .dataParameter _ => false
  | .dataPixel _ => false
  | .dataStray _ => false
  | .commandUnlisted _ => false

/-- The kind of a data row, `none` for every other row. -/
def Instr.dataKind : Instr → Option DataKind
  | .dataParameter _ => some .parameter
  | .dataPixel _ => some .pixel
  | .dataStray _ => some .stray
  | .writeByte _ _ _ _ => none
  | .writeCommand _ _ _ _ => none
  | .writeData _ _ _ _ => none
  | .initDisplay _ _ _ _ => none
  | .setAddressWindow _ _ _ _ => none
  | .drawPixel _ _ _ _ => none
  | .reservedReq _ _ _ _ _ => none
  | .vcomControl => none
  | .memoryAccessControl => none
  | .pixelFormatSet => none
  | .sleepOut => none
  | .displayOn => none
  | .columnAddressSet => none
  | .pageAddressSet => none
  | .memoryWrite => none
  | .commandUnlisted _ => none

end Sys2Proof
end

