-- ==== Sys2Proof/Machine/State.lean ====
section
/-! DEFINITION. The state of the block, of the receiver and of the tracker (10_state.md R20 to R34, 30_encoding.md R84,
60_exceptions.md R175, R177), the two inputs from outside, the state after reset (R39), and the names of the ways a step
can stop. -/

namespace Sys2Proof.Machine

/-- The six line output registers (R21): `none` is a line the block has never driven. -/
structure Lines where
  rst : Option Level
  cs : Option Level
  rs : Option Level
  data : Option Level
  clk : Option Level
  bl : Option Level
  deriving DecidableEq, Repr

/-- `L[n]` (R17). -/
def Lines.get (l : Lines) : Line → Option Level
  | .rst => l.rst
  | .cs => l.cs
  | .rs => l.rs
  | .data => l.data
  | .clk => l.clk
  | .bl => l.bl

/-- The registers after `L[n] <- v` (R17). -/
def Lines.put (l : Lines) (n : Line) (v : Level) : Lines :=
  match n with
  | .rst => { l with rst := some v }
  | .cs => { l with cs := some v }
  | .rs => { l with rs := some v }
  | .data => { l with data := some v }
  | .clk => { l with clk := some v }
  | .bl => { l with bl := some v }

/-- The five phases of the controller (R30). -/
inductive Phase where
  | uninit
  | sleeping
  | awakeIdle
  | windowed
  | writing
  deriving DecidableEq, Repr

/-- The nine violation codes (R175). -/
inductive Violation where
  /-- `V_UNINIT` -/
  | uninit
  /-- `V_REINIT` -/
  | reinit
  /-- `V_FRAME` -/
  | frame
  /-- `V_UNLISTED` -/
  | unlisted
  /-- `V_SHORT` -/
  | short
  /-- `V_HALFPIX` -/
  | halfpix
  /-- `V_WORDER` -/
  | worder
  /-- `V_STRAYDATA` -/
  | straydata
  /-- `V_FMT` -/
  | fmt
  deriving DecidableEq, Repr

/-- A set of violation codes (R33), one membership bit a code, so that equal sets are equal data. -/
structure ViolSet where
  uninit : Bool
  reinit : Bool
  frame : Bool
  unlisted : Bool
  short : Bool
  halfpix : Bool
  worder : Bool
  straydata : Bool
  fmt : Bool
  deriving DecidableEq, Repr

/-- The empty set of codes. -/
def ViolSet.empty : ViolSet := ⟨false, false, false, false, false, false, false, false, false⟩

/-- Membership of a code. -/
def ViolSet.has (v : ViolSet) : Violation → Bool
  | .uninit => v.uninit
  | .reinit => v.reinit
  | .frame => v.frame
  | .unlisted => v.unlisted
  | .short => v.short
  | .halfpix => v.halfpix
  | .worder => v.worder
  | .straydata => v.straydata
  | .fmt => v.fmt

/-- The set with a code added. -/
def ViolSet.add (v : ViolSet) (c : Violation) : ViolSet :=
  match c with
  | .uninit => { v with uninit := true }
  | .reinit => { v with reinit := true }
  | .frame => { v with frame := true }
  | .unlisted => { v with unlisted := true }
  | .short => { v with short := true }
  | .halfpix => { v with halfpix := true }
  | .worder => { v with worder := true }
  | .straydata => { v with straydata := true }
  | .fmt => { v with fmt := true }

/-- One listed pixel of GRAM: its address and its 16-bit value, the unit of that space (R50) (log entry 11). -/
abbrev GramCell := Nat × Half

/-- GRAM as a list in one canonical form, addresses strictly rising (log entry 11). -/
abbrev Memory := List GramCell

/-- One call `GramStore(mac, win, k, c)` (R66, R152). -/
structure GramCall where
  mac : Option Byte
  win : Option Window
  k : Nat
  color : Half
  deriving DecidableEq, Repr

/-- Everything the specification gives the machine (R20), in its order; then GRAM (R38), the two inputs and the
model's own counter. -/
structure State where
  /-- (a) the six line output registers (R21) -/
  lines : Lines
  /-- (b) the operation in progress, `none` when idle (R25) -/
  cur : Option Operation
  /-- (b) the index of the next micro-operation (R25) -/
  pc : Nat
  /-- (b) operand latch `A` (R26) -/
  latchA : Half
  /-- (b) operand latch `B` (R26) -/
  latchB : Half
  /-- (b) operand latch `C` (R26) -/
  latchC : Half
  /-- (b) operand latch `D` (R26) -/
  latchD : Half
  /-- (c) an `initialize` request has been accepted (R28) -/
  inited : Bool
  /-- (d) the controller's phase (R30) -/
  phase : Phase
  /-- (d) the retained window (R31) -/
  win : Option Window
  /-- (d) the command whose data bytes are being collected (R32) -/
  cmd : Option Byte
  /-- (d) the data bytes that command is still owed (R32) -/
  need : Nat
  /-- (d) the data bytes collected so far (R32) -/
  acc : List Byte
  /-- (d) the two values of a complete column-address-set (R32) -/
  caDone : Option (Half × Half)
  /-- (d) sleep-out seen since the last reset pulse (R32) -/
  slpout : Bool
  /-- (d) the 16-bit pixel format set since the last reset pulse (R32) -/
  fmt16 : Bool
  /-- (d) the high byte of a pixel whose low byte has not arrived (R32) -/
  half : Option Byte
  /-- (d) pixels completed since the last memory-write (R32) -/
  npix : Nat
  /-- (d) the last memory-access-control byte (R32) -/
  mac : Option Byte
  /-- receiver: a chip-select window is open (R84) -/
  rxOpen : Bool
  /-- receiver: the mode sampled in this frame (R84) -/
  rxRs : Option Level
  /-- receiver: the data levels sampled in this frame (R84) -/
  rxBits : List Level
  /-- receiver: `V_FRAME` was flagged in this frame (R84) (log entry 6) -/
  rxBad : Bool
  /-- (e) the sticky violation set (R33) -/
  viol : ViolSet
  /-- (e) the sticky refusal mark (R177) -/
  refused : Bool
  /-- (f) the line trace `LT` (R34) -/
  lt : List MicroOp
  /-- (f) the frame trace `FT` (R34) -/
  ft : List Frame
  /-- GRAM, the controller's frame memory (R38, R50, R66) -/
  gram : Memory
  /-- the `GramStore` calls made, in order (R152) (log entry 12) -/
  gramCalls : List GramCall
  /-- input: the caller's requests still to come, the first the one presented (R78, R203) (log entry 2) -/
  requests : List RequestWord
  /-- input: the delay provider's reports still to come, each the time-units passed since the wait in progress began
  (R18) (log entry 3) -/
  delays : List Nat
  /-- the model's own: how many draws have been made, the argument of `Config.draw` (R24) (log entry 5) -/
  draws : Nat
  /-- the model's own: how many reset pulses have begun, an argument of `Config.gramAfterReset` (R141) (log entry 27) -/
  resets : Nat
  deriving DecidableEq, Repr

/-- `busy` (R27). -/
def State.busy (s : State) : Bool := s.cur.isSome

/-- The state after the block's own reset (R39, R190). The latches, which R39 leaves unspecified, are 0 (DESIGN CHOICE,
unsafe, log entry 7); GRAM lists nothing (log entry 11); no request and no report has come (log entries 2, 3). -/
def State.reset : State where
  lines := ⟨none, none, none, none, none, none⟩
  cur := none
  pc := 0
  latchA := 0
  latchB := 0
  latchC := 0
  latchD := 0
  inited := false
  phase := .uninit
  win := none
  cmd := none
  need := 0
  acc := []
  caDone := none
  slpout := false
  fmt16 := false
  half := none
  npix := 0
  mac := none
  rxOpen := false
  rxRs := none
  rxBits := []
  rxBad := false
  viol := ViolSet.empty
  refused := false
  lt := []
  ft := []
  gram := []
  gramCalls := []
  requests := []
  delays := []
  draws := 0
  resets := 0

/-- Why the machine stops with a fault. -/
inductive Fault where
  /-- Raised by `step` in a busy state whose `pc` is no index of the operation's expansion. R25 gives such a state no
  step, and no run reaches one (`State.sequenced` of Sys2Proof/Safety.lean is an invariant). Safe (log entry 14). -/
  | noMicroOperation
  deriving DecidableEq, Repr

/-- Why the machine refuses an instruction. The specification's own refusal (R177) is a next state with the mark
`refused`, not one of these. -/
inductive Refusal where
  /-- Raised by an arm of `exec` whose instruction has no meaning yet. Safe. No arm does. -/
  | notModelled (mnemonic : String)
  deriving DecidableEq, Repr

/-- What a meaning answers. -/
abbrev Result := Host.Outcome State Fault Refusal

end Sys2Proof.Machine
end

