-- ==== Sys2Proof/Machine/Operands.lean ====
section
/-! DEFINITION. Operand assembly (30_encoding.md R71 to R73, R77; 41_protocol.md R133), the bit cell, the byte body and
the frame as lists of micro-operations, and the build the machine runs with. -/

namespace Sys2Proof.Machine

/-- `hi8(v) = v[15:8]` (R16, R77). -/
def hi8 (v : Half) : Byte := v.extractLsb' 8 8

/-- `lo8(v) = v[7:0]` (R16, R77). -/
def lo8 (v : Half) : Byte := v.extractLsb' 0 8

/-- The 16-bit value of two bytes, the high one first (R52, R53, R148). -/
def pair (h l : Byte) : Half := h ++ l

/-- `inc16(v) = (v + 1) mod 2^16` (R16, R133). -/
def inc16 (v : Half) : Half := v + 1

/-- The bits of a byte, most significant first (R51). -/
def msbFirst (b : Byte) : List Level :=
  [b.getLsbD 7, b.getLsbD 6, b.getLsbD 5, b.getLsbD 4, b.getLsbD 3, b.getLsbD 2, b.getLsbD 1, b.getLsbD 0]

/-- `byte(bits)`: the first level is bit 7 and the eighth bit 0 (R84). -/
def byteOf (bits : List Level) : Byte := bits.foldl (fun v l => (v.concat l).setWidth 8) 0

/-- `Cell(v)` (R71). -/
def cell (v : Level) : List MicroOp := [.set .clk false, .set .data v, .set .clk true]

/-- `XB(b)` (R72). -/
def byteBody (b : Byte) : List MicroOp := (msbFirst b).flatMap cell

/-- `XF(m, b)` (R73). -/
def frameOps (f : Frame) : List MicroOp :=
  [.set .cs false, .set .rs f.mode] ++ byteBody f.byte ++ [.set .cs true]

/-- `XC(o) = XF(0, o)` (R73). -/
def commandOps (o : Byte) : List MicroOp := frameOps ⟨false, o⟩

/-- `XD(b) = XF(1, b)` (R73). -/
def dataOps (b : Byte) : List MicroOp := frameOps ⟨true, b⟩

/-- The two data frames of a 16-bit value, high byte first (R52, R53). -/
def halfOps (v : Half) : List MicroOp := dataOps (hi8 v) ++ dataOps (lo8 v)

/-- The order that a code picks from a list of lines: each number picks one of the lines left, a code that has run out
leaves them as they stand (R15) (log entry 10). -/
def pickOrder : List Nat → List Line → List Line
  | [], left => left
  | k :: code, left =>
    match left[k % left.length]? with
    | none => left
    | some n => n :: pickOrder code (left.erase n)

/-- The build the machine runs with: every parameter open within what R9 and R15 admit. -/
def build : Config.Params where
  tStab := 15 + Config.tStabOver
  tPre := Config.tPre
  tRstLow := 15 + Config.tRstLowOver
  tRstPost := 15 + Config.tRstPostOver
  tSlpOut := 10 + Config.tSlpOutOver
  vcomH := Config.vcomH
  vcomL := Config.vcomL
  madctl := Config.madctl
  eagerRamwr := Config.eagerRamwr
  lineOrder := pickOrder Config.lineOrderCode Line.all

end Sys2Proof.Machine
end

