-- ==== Sys2Proof/Machine/Flags.lean ====
section
/-! DEFINITION. The violation flags (60_exceptions.md R173 to R176). The hardware has no exceptions: `flag` is what
stands in the place of taking one, and there is nothing to return from (R173, R174). -/

namespace Sys2Proof.Machine

/-- `flag V_x`: adds the code to the sticky set and does nothing else (R17, R173). -/
def State.flag (s : State) (c : Violation) : State := { s with viol := s.viol.add c }

/-- `flag V_x` where a condition holds. -/
def State.flagIf (s : State) (p : Bool) (c : Violation) : State := if p then s.flag c else s

/-- The operation-level checks, made once when a request is accepted (R176). -/
def operationChecks (op : Operation) (s : State) : State :=
  if op = .initDisplay then { s.flagIf s.inited .reinit with inited := true }
  else s.flagIf (!s.inited) .uninit

end Sys2Proof.Machine
end

