-- ==== Sys2Proof/Machine/Ops.lean ====
section
/-! DEFINITION. The named operations over the state: the read of a line that may be undriven, accepting and refusing
a request, GRAM and its store. -/

namespace Sys2Proof.Machine

/-- A read of a line's level: an undriven line gives a fresh draw (R24, 93 S5). DESIGN CHOICE, safe (log entry 5). -/
def readLevel (l : Option Level) (s : State) : Level × State :=
  match l with
  | some v => (v, s)
  | none => (Config.draw s.draws, { s with draws := s.draws + 1 })

/-- A request for an operation, its four operands given (R27): accepted when idle, that is `cur`, the latches and `pc`
are set and the operation-level checks made; held, that is without any step, while busy (log entry 16). -/
def accept (op : Operation) (a b c d : Half) (s : State) : State :=
  if s.busy then s
  else operationChecks op { s with cur := some op, pc := 0, latchA := a, latchB := b, latchC := c, latchD := d }

/-- A reserved or ill-formed request (R80, R177): consumed, no micro-operation, the sticky mark set; held while busy
like any other. The latches stay as they are (DESIGN CHOICE, log entry 8). -/
def refuse (s : State) : State := if s.busy then s else { s with refused := true }

/-- The address of a GRAM pixel: the pair of its coordinates (R50) (log entry 11). -/
def gramAddress (ca pa : Half) : Nat := ca.toNat * 2 ^ 16 + pa.toNat

/-- What GRAM holds at an address; an unlisted one has no value (log entry 11). No operation of the machine reads
(R2, R50): this is what statements speak of. -/
def Memory.read (m : Memory) (a : Nat) : Option Half :=
  match m with
  | [] => none
  | c :: rest => if c.1 = a then some c.2 else Memory.read rest a

/-- GRAM with one pixel written, its canonical form kept. -/
def Memory.write (m : Memory) (a : Nat) (v : Half) : Memory :=
  match m with
  | [] => [(a, v)]
  | c :: rest =>
    if a < c.1 then (a, v) :: c :: rest
    else if a = c.1 then (a, v) :: rest
    else c :: Memory.write rest a v

/-- The canonical form: addresses strictly rising. No value is the one an unlisted address reads as, which is none. -/
abbrev Memory.wf (m : Memory) : Prop := m.Pairwise (fun c d => c.1 < d.1)

/-- GRAM after a list of pixel writes, in order. -/
def Memory.writeAll (m : Memory) (ws : List GramWrite) : Memory :=
  ws.foldl (fun m w => Memory.write m (gramAddress w.ca w.pa) w.value) m

/-- What a reset pulse does to GRAM: the specification leaves it open (R141, R183, N11), so that from the pulse on GRAM
holds whatever the open function answers, nothing of before being assumed kept. The calls recorded stay recorded.
DESIGN CHOICE, safe (log entry 27). -/
def freeGram (s : State) : State :=
  { s with gram := Memory.writeAll [] (Config.gramAfterReset s.resets s.gram), resets := s.resets + 1 }

/-- `GramStore(mac, win, npix, c)` performed (R66, R152): the pixels it changes are the open function's answer. -/
def storePixel (c : Half) (s : State) : State :=
  { s with
    gram := Memory.writeAll s.gram (Config.gramStore s.mac s.win s.npix c)
    gramCalls := s.gramCalls ++ [⟨s.mac, s.win, s.npix, c⟩] }

end Sys2Proof.Machine
end

