-- ==== Sys2Proof/Machine/Tracker.lean ====
section
/-! DEFINITION. The shared operations of the tracker (42_controller_commands.md R140 to R142, R151 to R153): the reset
line's events, the part common to all command frames, and the data frame. -/

namespace Sys2Proof.Machine

/-- `RstFall`, in any phase: the tracker keeps nothing (R141). R141 does not speak of GRAM, which is free from here on
(log entry 27). -/
def resetFall (s : State) : State :=
  { freeGram s with
    phase := .uninit, win := none, mac := none, cmd := none, need := 0, acc := [], caDone := none
    slpout := false, fmt16 := false, half := none, npix := 0 }

/-- `RstRise`: listed in `Uninit` only (R141), any other phase takes the default of R140 (log entry 20). -/
def resetRise (s : State) : State :=
  if s.phase = .uninit then { s with phase := .sleeping } else s.flag .unlisted

/-- The tracker's answer to the line write `L[n] <- v`, the lines still as before it: the two events of the reset line
(R140, R141). -/
def trackReset (n : Line) (v : Level) (s : State) : State :=
  match n, v with
  | .rst, false => if s.lines.rst ≠ some false then resetFall s else s
  | .rst, true => if s.lines.rst = some false then resetRise s else s
  | .cs, _ => s
  | .rs, _ => s
  | .data, _ => s
  | .clk, _ => s
  | .bl, _ => s

/-- R142, first line: the previous command is still owed bytes. -/
def endParameters (s : State) : State :=
  if s.need > 0 then { s.flag .short with cmd := none, need := 0, acc := [] } else s

/-- R142, second line: a pixel's low byte is outstanding. -/
def endHalfPixel (s : State) : State :=
  if s.half ≠ none then { s.flag .halfpix with half := none } else s

/-- R142, third and fourth lines: a command ends the stream; after a window-set it must be memory-write. -/
def endWindow (o : Byte) (s : State) : State :=
  if s.phase = .writing then { s with phase := .awakeIdle }
  else if s.phase = .windowed ∧ o ≠ 0x2C then { s.flag .worder with phase := .awakeIdle }
  else s

/-- R142, fifth line. -/
def endColumns (o : Byte) (s : State) : State := if o ≠ 0x2B then { s with caDone := none } else s

/-- The part common to every command frame in a phase other than `Uninit` (R142). -/
def commandCommon (o : Byte) (s : State) : State := endColumns o (endWindow o (endHalfPixel (endParameters s)))

/-- The command frame `Frame(0, o)` with the opcode's own rule `act`: in `Uninit` it has no listed transition (R140),
elsewhere the common part comes first (R142). -/
def takeCommand (o : Byte) (act : State → State) (s : State) : State :=
  if s.phase = .uninit then s.flag .unlisted else act (commandCommon o s)

/-- A command that is owed `n` data bytes: `cmd <- o`, `need <- n`, `acc <- []`. -/
def owe (o : Byte) (n : Nat) (s : State) : State := { s with cmd := some o, need := n, acc := [] }

/-- A command that is owed none: `cmd <- none`, `need <- 0`. -/
def oweNothing (s : State) : State := { s with cmd := none, need := 0 }

/-- `listed in phase p, elsewhere also flag V_UNLISTED`. -/
def listedIn (p : Phase) (s : State) : State := s.flagIf (s.phase != p) .unlisted

/-- Collected parameter byte `i`; a list too short to have one, which no run reaches, gives a free value (log entry
15). -/
def accByte (s : State) (i : Nat) : Byte := (s.acc[i]?).getD (Config.missingByte i)

/-- The two 16-bit values that four collected bytes carry (R148, R149). -/
def accPair (s : State) : Half × Half :=
  (pair (accByte s 0) (accByte s 1), pair (accByte s 2) (accByte s 3))

/-- The completion of a column-address-set (R148). -/
def completeColumns (s : State) : State := { s with caDone := some (accPair s) }

/-- The completion of a page-address-set (R149). -/
def completePages (s : State) : State :=
  match s.caDone, s.phase with
  | some (b, e), .awakeIdle =>
    { s with win := some ⟨b, e, (accPair s).1, (accPair s).2⟩, caDone := none, phase := .windowed }
  | _, _ => s

/-- The completion action of the command being collected, `b` its last data byte (R151). -/
def completeCommand (b : Byte) (s : State) : State :=
  if s.cmd = some 0x36 then { s with mac := some b }
  else if s.cmd = some 0x3A then { s with fmt16 := b == 0x55 }
  else if s.cmd = some 0x2A then completeColumns s
  else if s.cmd = some 0x2B then completePages s
  else s

/-- A data frame that is a parameter (R151). What `acc` holds after the last one is left as collected (log entry
23). -/
def takeParameter (b : Byte) (s : State) : State :=
  let s := { s with acc := s.acc ++ [b], need := s.need - 1 }
  if s.need = 0 then { completeCommand b s with cmd := none } else s

/-- A data frame that is pixel data (R152). -/
def takePixel (b : Byte) (s : State) : State :=
  match s.half with
  | none => { s with half := some b }
  | some h => { storePixel (pair h b) s with npix := s.npix + 1, half := none }

/-- A data frame that nothing receives (R153). -/
def takeStray (s : State) : State := s.flag .straydata

/-- The data frame `Frame(1, b)`: what it is depends on the tracker's state only (R140, R151 to R153). -/
def takeData (b : Byte) (s : State) : State :=
  if s.phase = .uninit then s.flag .unlisted
  else if s.need > 0 then takeParameter b s
  else if s.phase = .writing then takePixel b s
  else takeStray s

/-- The row of the table that a data frame is, in this state. In `Uninit` no row applies (R140); the name is then the
first of the three (log entry 13). -/
def dataKind (s : State) : DataKind :=
  if s.phase = .uninit then .parameter
  else if s.need > 0 then .parameter
  else if s.phase = .writing then .pixel
  else .stray

end Sys2Proof.Machine
end

