-- ==== Sys2Proof/Machine/Commands.lean ====
section
/-! DEFINITION. The meanings of the command frames at the controller (42_controller_commands.md R143 to R150, R154):
what the tracker does when the receiver closes one. -/

namespace Sys2Proof.Machine

/-- `VCOM_CONTROL`, 0xC5 (R143). -/
def execVcomControl (s : State) : Result :=
  .next (takeCommand 0xC5 (fun s => listedIn .sleeping (owe 0xC5 2 s)) s)

/-- `MEMORY_ACCESS_CONTROL`, 0x36 (R144). -/
def execMemoryAccessControl (s : State) : Result :=
  .next (takeCommand 0x36 (fun s => listedIn .sleeping (owe 0x36 1 s)) s)

/-- `PIXEL_FORMAT_SET`, 0x3A (R145). -/
def execPixelFormatSet (s : State) : Result :=
  .next (takeCommand 0x3A (fun s => listedIn .sleeping (owe 0x3A 1 s)) s)

/-- Sleep-out's own rule (R146). -/
def sleepOutRule (s : State) : State :=
  if s.phase = .sleeping then { oweNothing s with slpout := true } else (oweNothing s).flag .unlisted

/-- `SLEEP_OUT`, 0x11 (R146). -/
def execSleepOut (s : State) : Result := .next (takeCommand 0x11 sleepOutRule s)

/-- Display-on's own rule (R147). -/
def displayOnRule (s : State) : State :=
  if s.phase = .sleeping ∧ s.slpout = true then { oweNothing s with phase := .awakeIdle }
  else (oweNothing s).flag .unlisted

/-- `DISPLAY_ON`, 0x29 (R147). -/
def execDisplayOn (s : State) : Result := .next (takeCommand 0x29 displayOnRule s)

/-- `COLUMN_ADDRESS_SET`, 0x2A (R148). -/
def execColumnAddressSet (s : State) : Result :=
  .next (takeCommand 0x2A (fun s => listedIn .awakeIdle (owe 0x2A 4 s)) s)

/-- Page-address-set's own rule (R149) (log entry 21). -/
def pageAddressRule (s : State) : State :=
  if s.phase = .awakeIdle then (owe 0x2B 4 s).flagIf s.caDone.isNone .worder
  else (owe 0x2B 4 s).flag .unlisted

/-- `PAGE_ADDRESS_SET`, 0x2B (R149). -/
def execPageAddressSet (s : State) : Result := .next (takeCommand 0x2B pageAddressRule s)

/-- Memory-write's own rule (R150): after the common part the phase is neither `Uninit` nor `Writing`. -/
def memoryWriteRule (s : State) : State :=
  match s.phase with
  | .windowed =>
    { (oweNothing s).flagIf (!s.fmt16) .fmt with phase := .writing, npix := 0, half := none }
  | .sleeping => (oweNothing s).flag .unlisted
  | .awakeIdle => oweNothing s
  | .uninit => oweNothing s
  | .writing => oweNothing s

/-- `MEMORY_WRITE`, 0x2C (R150). -/
def execMemoryWrite (s : State) : Result := .next (takeCommand 0x2C memoryWriteRule s)

/-- `COMMAND_UNLISTED`, any other opcode (R154). -/
def execCommandUnlisted (o : Byte) (s : State) : Result :=
  .next (takeCommand o (fun s => (oweNothing s).flag .unlisted) s)

end Sys2Proof.Machine
end

