-- ==== Sys2Proof/Machine/DataFrames.lean ====
section
/-! DEFINITION. The meanings of the three data rows (42_controller_commands.md R151 to R153). The three have the same
bits, so each is the data frame's one effect, which the tracker's state decides (log entry 13). -/

namespace Sys2Proof.Machine

/-- `DATA_PARAMETER` (R151). -/
def execDataParameter (b : Byte) (s : State) : Result := .next (takeData b s)

/-- `DATA_PIXEL` (R152). -/
def execDataPixel (b : Byte) (s : State) : Result := .next (takeData b s)

/-- `DATA_STRAY` (R153). -/
def execDataStray (b : Byte) (s : State) : Result := .next (takeData b s)

end Sys2Proof.Machine
end

