-- ==== Sys2Proof/Machine/Protocol.lean ====
section
/-! DEFINITION. The Addressing & Pixel Protocol operations (41_protocol.md R120 to R133): their expansions and the
meanings of their requests, the reserved requests among them (30_encoding.md R80). -/

namespace Sys2Proof.Machine

/-- Step 1 of `initialize`, idle levels (R121). -/
def initIdleLevels (p : Config.Params) : List MicroOp := p.lineOrder.map (MicroOp.set · true) ++ [.wait p.tStab]

/-- Step 2, the hardware reset pulse (R122). -/
def initResetPulse (p : Config.Params) : List MicroOp :=
  [.set .rst true, .wait p.tPre, .set .rst false, .wait p.tRstLow, .set .rst true, .wait p.tRstPost]

/-- Step 3, VCOM (R123). -/
def initVcom (p : Config.Params) : List MicroOp := commandOps 0xC5 ++ dataOps p.vcomH ++ dataOps p.vcomL

/-- Step 4, memory access control (R124). -/
def initMemoryAccess (p : Config.Params) : List MicroOp := commandOps 0x36 ++ dataOps p.madctl

/-- Step 5, pixel format `PIXFMT = 0x55` (R8, R125). -/
def initPixelFormat : List MicroOp := commandOps 0x3A ++ dataOps 0x55

/-- Step 6, sleep out and its settling wait (R126). -/
def initSleepOut (p : Config.Params) : List MicroOp := commandOps 0x11 ++ [.wait p.tSlpOut]

/-- Step 7, display on (R127). -/
def initDisplayOn : List MicroOp := commandOps 0x29

/-- Step 8, the optional eager memory write (R128). -/
def initEager (p : Config.Params) : List MicroOp := if p.eagerRamwr then commandOps 0x2C else []

/-- `XI` (R120). -/
def initDisplayOps (p : Config.Params) : List MicroOp :=
  initIdleLevels p ++ initResetPulse p ++ initVcom p ++ initMemoryAccess p ++ initPixelFormat ++ initSleepOut p
    ++ initDisplayOn ++ initEager p

/-- `XW(rs, re, cs, ce)` (R130): rows with column-address-set, columns with page-address-set (R131). -/
def setAddressWindowOps (rowStart rowEnd colStart colEnd : Half) : List MicroOp :=
  commandOps 0x2A ++ halfOps rowStart ++ halfOps rowEnd
    ++ commandOps 0x2B ++ halfOps colStart ++ halfOps colEnd
    ++ commandOps 0x2C

/-- `XP(x, y, c)` (R132). -/
def drawPixelOps (x y color : Half) : List MicroOp :=
  setAddressWindowOps y (inc16 y) x (inc16 x) ++ halfOps color

/-- `INITIALIZE` (R120, R27). -/
def execInitDisplay (a b c d : Half) (s : State) : Result := .next (accept .initDisplay a b c d s)

/-- `SET_ADDRESS_WINDOW` (R130, R27). -/
def execSetAddressWindow (rowStart rowEnd colStart colEnd : Half) (s : State) : Result :=
  .next (accept .setAddressWindow rowStart rowEnd colStart colEnd s)

/-- `DRAW_PIXEL` (R132, R27). -/
def execDrawPixel (x y color d : Half) (s : State) : Result := .next (accept .drawPixel x y color d s)

/-- `RESERVED_REQ_6_7` (R80, R177). -/
def execReservedReq (_op : BitVec 3) (_a _b _c _d : Half) (s : State) : Result := .next (refuse s)

end Sys2Proof.Machine
end

