-- ==== Sys2Proof/Machine/Transport.lean ====
section
/-! DEFINITION. The Bit-Level Transport operations (40_transport.md R100 to R102): their expansions, which the
micro-sequencer performs, and the meanings of their requests, which is to be accepted (10_state.md R27). -/

namespace Sys2Proof.Machine

/-- `X(writeByte(value)) = XB(value)`, `value` from `A[7:0]` (R100). -/
def writeByteOps (a : Half) : List MicroOp := byteBody (lo8 a)

/-- `X(writeCommand(opcode)) = XF(0, opcode)`, `opcode` from `A[7:0]` (R101). -/
def writeCommandOps (a : Half) : List MicroOp := commandOps (lo8 a)

/-- `X(writeData(byte)) = XF(1, byte)`, `byte` from `A[7:0]` (R102). -/
def writeDataOps (a : Half) : List MicroOp := dataOps (lo8 a)

/-- `WRITE_BYTE` (R100, R27). -/
def execWriteByte (value : Byte) (b c d : Half) (s : State) : Result :=
  .next (accept .writeByte (value.setWidth 16) b c d s)

/-- `WRITE_COMMAND` (R101, R27). -/
def execWriteCommand (opcode : Byte) (b c d : Half) (s : State) : Result :=
  .next (accept .writeCommand (opcode.setWidth 16) b c d s)

/-- `WRITE_DATA` (R102, R27). -/
def execWriteData (byte : Byte) (b c d : Half) (s : State) : Result :=
  .next (accept .writeData (byte.setWidth 16) b c d s)

end Sys2Proof.Machine
end

