-- ==== Sys2Proof/Machine/Dispatch.lean ====
section
/-! DEFINITION. The meaning of every instruction, one arm per constructor. -/

namespace Sys2Proof.Machine

def exec (i : Instr) (s : State) : Host.Outcome State Fault Refusal :=
  match i with
  | .writeByte value b c d => Sys2Proof.Machine.execWriteByte value b c d s
  | .writeCommand opcode b c d => Sys2Proof.Machine.execWriteCommand opcode b c d s
  | .writeData byte b c d => Sys2Proof.Machine.execWriteData byte b c d s
  | .initDisplay a b c d => Sys2Proof.Machine.execInitDisplay a b c d s
  | .setAddressWindow rowStart rowEnd colStart colEnd => Sys2Proof.Machine.execSetAddressWindow rowStart rowEnd colStart colEnd s
  | .drawPixel x y color d => Sys2Proof.Machine.execDrawPixel x y color d s
  | .reservedReq op a b c d => Sys2Proof.Machine.execReservedReq op a b c d s
  | .vcomControl => Sys2Proof.Machine.execVcomControl s
  | .memoryAccessControl => Sys2Proof.Machine.execMemoryAccessControl s
  | .pixelFormatSet => Sys2Proof.Machine.execPixelFormatSet s
  | .sleepOut => Sys2Proof.Machine.execSleepOut s
  | .displayOn => Sys2Proof.Machine.execDisplayOn s
  | .columnAddressSet => Sys2Proof.Machine.execColumnAddressSet s
  | .pageAddressSet => Sys2Proof.Machine.execPageAddressSet s
  | .memoryWrite => Sys2Proof.Machine.execMemoryWrite s
  | .dataParameter b => Sys2Proof.Machine.execDataParameter b s
  | .dataPixel b => Sys2Proof.Machine.execDataPixel b s
  | .dataStray b => Sys2Proof.Machine.execDataStray b s
  | .commandUnlisted opcode => Sys2Proof.Machine.execCommandUnlisted opcode s

end Sys2Proof.Machine
end

