-- ==== Sys2Proof/WellFormed.lean ====
section
/-! DEFINITION. Well-formed instructions: the two operands whose range the table restricts. Everything else is well
formed by its type (30_encoding.md R76, R80, R81). -/

namespace Sys2Proof

/-- The eight opcodes of R76, in the table's order. -/
def listedOpcodes : List Byte := [0xC5, 0x36, 0x3A, 0x11, 0x29, 0x2A, 0x2B, 0x2C]

/-- A reserved request has operation code 6 or 7 (R80); an unlisted command has none of the eight opcodes (R81,
R154). -/
def Instr.wellFormed : Instr → Bool
  | .reservedReq op _ _ _ _ => op == 6 || op == 7
  | .commandUnlisted o => !listedOpcodes.contains o
  | .writeByte _ _ _ _ => true
  | .writeCommand _ _ _ _ => true
  | .writeData _ _ _ _ => true
  | .initDisplay _ _ _ _ => true
  | .setAddressWindow _ _ _ _ => true
  | .drawPixel _ _ _ _ => true
  | .vcomControl => true
  | .memoryAccessControl => true
  | .pixelFormatSet => true
  | .sleepOut => true
  | .displayOn => true
  | .columnAddressSet => true
  | .pageAddressSet => true
  | .memoryWrite => true
  | .dataParameter _ => true
  | .dataPixel _ => true
  | .dataStray _ => true

end Sys2Proof
end

