-- ==== Sys2Proof/Decode.lean ====
section
/-! DEFINITION. The decoder and the encoder of the two word formats of spec/opcode_table.json: the 67-bit request
(30_encoding.md R78 to R80) and the 9-bit frame symbol (R74, R76, R151 to R154). -/

namespace Sys2Proof

/-- Why a word is no instruction. -/
inductive DecodeError where
  /-- A request with `op ∈ {0,1,2}` and `a[15:8] ≠ 0` names a value that is not a `uint8` (R80). -/
  | operandNotAByte (op : BitVec 3) (a : Half)
  deriving DecidableEq, Repr

/-- The decoder's answer. -/
inductive Decoded where
  | ok (i : Instr)
  | rejected (e : DecodeError)
  deriving DecidableEq, Repr

/-- A word of one of the two formats. -/
inductive Wire where
  | request (w : RequestWord)
  | symbol (w : SymbolWord)
  deriving DecidableEq, Repr

/-- `op = req[66:64]` (R78). -/
def reqOp (w : RequestWord) : BitVec 3 := w.extractLsb' 64 3
/-- `a = req[63:48]` (R78). -/
def reqA (w : RequestWord) : Half := w.extractLsb' 48 16
/-- `b = req[47:32]` (R78). -/
def reqB (w : RequestWord) : Half := w.extractLsb' 32 16
/-- `c = req[31:16]` (R78). -/
def reqC (w : RequestWord) : Half := w.extractLsb' 16 16
/-- `d = req[15:0]` (R78). -/
def reqD (w : RequestWord) : Half := w.extractLsb' 0 16

/-- The word `op ‖ a ‖ b ‖ c ‖ d` (R78). -/
def packRequest (op : BitVec 3) (a b c d : Half) : RequestWord := op ++ a ++ b ++ c ++ d

/-- A request whose first operand is a `uint8` (R79): `a[7:0]` where `a[15:8] = 0`, rejected otherwise (R80). -/
def decodeByteRequest (op : BitVec 3) (a : Half) (i : Byte → Instr) : Decoded :=
  if a.extractLsb' 8 8 = 0 then .ok (i (a.setWidth 8)) else .rejected (.operandNotAByte op a)

/-- The request decoder (R79, R80), total on the 67-bit words. -/
def decodeRequest (w : RequestWord) : Decoded :=
  if reqOp w = 0 then decodeByteRequest (reqOp w) (reqA w) (.writeByte · (reqB w) (reqC w) (reqD w))
  else if reqOp w = 1 then decodeByteRequest (reqOp w) (reqA w) (.writeCommand · (reqB w) (reqC w) (reqD w))
  else if reqOp w = 2 then decodeByteRequest (reqOp w) (reqA w) (.writeData · (reqB w) (reqC w) (reqD w))
  else if reqOp w = 3 then .ok (.initDisplay (reqA w) (reqB w) (reqC w) (reqD w))
  else if reqOp w = 4 then .ok (.setAddressWindow (reqA w) (reqB w) (reqC w) (reqD w))
  else if reqOp w = 5 then .ok (.drawPixel (reqA w) (reqB w) (reqC w) (reqD w))
  else .ok (.reservedReq (reqOp w) (reqA w) (reqB w) (reqC w) (reqD w))

/-- The instruction of a command frame's opcode: the eight rows of R76, then the row of lowest priority (R154). -/
def decodeCommand (o : Byte) : Instr :=
  if o = 0xC5 then .vcomControl
  else if o = 0x36 then .memoryAccessControl
  else if o = 0x3A then .pixelFormatSet
  else if o = 0x11 then .sleepOut
  else if o = 0x29 then .displayOn
  else if o = 0x2A then .columnAddressSet
  else if o = 0x2B then .pageAddressSet
  else if o = 0x2C then .memoryWrite
  else .commandUnlisted o

/-- The instruction of a data frame's byte, its row given by the tracker's state (R151 to R153). -/
def decodeData (k : DataKind) (b : Byte) : Instr :=
  match k with
  | .parameter => .dataParameter b
  | .pixel => .dataPixel b
  | .stray => .dataStray b

/-- The 9-bit symbol `m ‖ b` (R74). -/
def Frame.symbol (f : Frame) : SymbolWord := BitVec.ofBool f.mode ++ f.byte

/-- The frame of a symbol: `s[8]` the mode, `s[7:0]` the byte (R74). -/
def frameOfSymbol (w : SymbolWord) : Frame := ⟨w.getLsbD 8, w.setWidth 8⟩

/-- The symbol decoder (R74, R82): the mode bit says whether the byte is an opcode or an operand. -/
def decodeSymbol (k : DataKind) (w : SymbolWord) : Instr :=
  if (frameOfSymbol w).mode then decodeData k (frameOfSymbol w).byte else decodeCommand (frameOfSymbol w).byte

/-- The decoder of both formats; a data symbol's row is the one of kind `k`. -/
def decode (k : DataKind) : Wire → Decoded
  | .request w => decodeRequest w
  | .symbol w => .ok (decodeSymbol k w)

/-- The encoder, from the tables R76 and R79: a byte operand is `zext_16` of the byte. -/
def encode : Instr → Wire
  | .writeByte v b c d => .request (packRequest 0 (v.setWidth 16) b c d)
  | .writeCommand o b c d => .request (packRequest 1 (o.setWidth 16) b c d)
  | .writeData v b c d => .request (packRequest 2 (v.setWidth 16) b c d)
  | .initDisplay a b c d => .request (packRequest 3 a b c d)
  | .setAddressWindow a b c d => .request (packRequest 4 a b c d)
  | .drawPixel a b c d => .request (packRequest 5 a b c d)
  | .reservedReq op a b c d => .request (packRequest op a b c d)
  | .vcomControl => .symbol 0x0C5
  | .memoryAccessControl => .symbol 0x036
  | .pixelFormatSet => .symbol 0x03A
  | .sleepOut => .symbol 0x011
  | .displayOn => .symbol 0x029
  | .columnAddressSet => .symbol 0x02A
  | .pageAddressSet => .symbol 0x02B
  | .memoryWrite => .symbol 0x02C
  | .dataParameter b => .symbol (Frame.symbol ⟨true, b⟩)
  | .dataPixel b => .symbol (Frame.symbol ⟨true, b⟩)
  | .dataStray b => .symbol (Frame.symbol ⟨true, b⟩)
  | .commandUnlisted o => .symbol (Frame.symbol ⟨false, o⟩)

/-- The instruction of a word as the table numbers its bits: a word of at most 16 bits is a 9-bit symbol, a longer one
a 67-bit request, with every bit above the format's width zero. A data symbol reads as the first of the three data rows
(log entry 13). -/
def decodeTableWord (nbits w : Nat) : Option Instr :=
  if nbits ≤ 16 then
    if w < 2 ^ 9 then some (decodeSymbol .parameter (BitVec.ofNat 9 w)) else none
  else if w < 2 ^ 67 then
    match decodeRequest (BitVec.ofNat 67 w) with
    | .ok i => some i
    | .rejected _ => none
  else none

end Sys2Proof
end

