-- ==== Sys2Proof/Machine/Receiver.lean ====
section
/-! DEFINITION. The receiver (30_encoding.md R84): how the controller reads the lines, and how `FT` comes from `LT`. -/

namespace Sys2Proof.Machine

/-- `flag V_FRAME`, and the note that it was flagged in this frame (R84) (log entry 6). -/
def badFrame (s : State) : State := { s.flag .frame with rxBad := true }

/-- `Set(CS,0)` with `L[CS] ≠ 0` (R84). -/
def openFrame (s : State) : State := { s with rxOpen := true, rxBits := [], rxRs := none, rxBad := false }

/-- The check of a sampled bit's lines: an undriven data or mode line (R84). -/
def checkDriven (s : State) : State := if s.lines.data = none ∨ s.lines.rs = none then badFrame s else s

/-- The mode line at a sample: taken at the first, required constant afterwards (R84). -/
def sampleMode (s : State) : State :=
  if s.rxRs = none then
    { (readLevel s.lines.rs s).2 with rxRs := some (readLevel s.lines.rs s).1 }
  else if s.rxRs ≠ s.lines.rs then badFrame s
  else s

/-- The data line at a sample (R84). -/
def sampleData (s : State) : State :=
  { (readLevel s.lines.data s).2 with rxBits := s.rxBits ++ [(readLevel s.lines.data s).1] }

/-- `Set(CLK,1)` with `L[CLK] = 0` and `L[CS] = 0` (R84). -/
def sample (s : State) : State := sampleData (sampleMode (checkDriven s))

/-- `Set(CS,1)` with `L[CS] = 0`: eight good bits are a frame, which `FT` gains and the tracker is to take; none at all
are nothing; any other count is `V_FRAME` (R84). -/
def closeFrame (s : State) : State × Option Frame :=
  if s.rxBits.length = 8 ∧ s.rxBad = false then
    let f : Frame := ⟨(readLevel s.rxRs s).1, byteOf s.rxBits⟩
    ({ (readLevel s.rxRs s).2 with ft := s.ft ++ [f], rxOpen := false }, some f)
  else ({ s.flagIf (s.rxBits.length != 0) .frame with rxOpen := false }, none)

/-- The receiver's answer to the line write `L[n] <- v`, the lines still as before it (R84). -/
def receive (n : Line) (v : Level) (s : State) : State × Option Frame :=
  match n, v with
  | .cs, false => if s.lines.cs ≠ some false then (openFrame s, none) else (s, none)
  | .clk, true =>
    if s.lines.clk = some false ∧ s.lines.cs = some false then (sample s, none) else (s, none)
  | .cs, true => if s.lines.cs = some false then closeFrame s else (s, none)
  | .clk, false => (s, none)
  | .rst, _ => (s, none)
  | .rs, _ => (s, none)
  | .data, _ => (s, none)
  | .bl, _ => (s, none)

end Sys2Proof.Machine
end

