-- ==== Sys2Proof/Machine/Sequencer.lean ====
section
/-! DEFINITION. The micro-sequencer (10_state.md R25 to R27; 00_scope.md R17, R18): what the block does in one step,
up to the instruction (an accepted request, or a closed frame) that the step then runs. -/

namespace Sys2Proof.Machine

/-- `X(op)` for a build and four operands (R25, R26, R100 to R132). -/
def expansion (p : Config.Params) (op : Operation) (a b c d : Half) : List MicroOp :=
  match op with
  | .writeByte => writeByteOps a
  | .writeCommand => writeCommandOps a
  | .writeData => writeDataOps a
  | .initDisplay => initDisplayOps p
  | .setAddressWindow => setAddressWindowOps a b c d
  | .drawPixel => drawPixelOps a b c

/-- `X(op)` of the operation `op`, its operands read from the latches (R26). -/
def State.expansion (s : State) (op : Operation) : List MicroOp :=
  Machine.expansion build op s.latchA s.latchB s.latchC s.latchD

/-- The line write `L[n] <- v` (R17): the receiver and the tracker see it with the lines as before (R84, R140), then
the register is set and the event appended. Answers the frame that the write closed, if any. -/
def lineWrite (n : Line) (v : Level) (s : State) : State × Option Frame :=
  let r := receive n v (trackReset n v s)
  ({ r.1 with lines := r.1.lines.put n v, lt := r.1.lt ++ [.set n v] }, r.2)

/-- `pc <- pc + 1`, and idle again at the expansion's end (R25). -/
def advance (len : Nat) (s : State) : State :=
  if s.pc + 1 = len then { s with cur := none, pc := 0 } else { s with pc := s.pc + 1 }

/-- The end of a wait: the event is appended when the wait completes (R17, R18) (log entry 4). -/
def waitDone (len k : Nat) (s : State) : State := advance len { s with lt := s.lt ++ [.wait k] }

/-- One step in a `Wait(k)` (R18): `Wait(0)` completes at once; else the delay provider's next report completes it if
at least `k` time-units have passed; with no report it goes on (R201) (log entry 3). -/
def waitStep (len k : Nat) (s : State) : State :=
  if k = 0 then waitDone len k s
  else
    match s.delays with
    | [] => s
    | r :: rest => if k ≤ r then waitDone len k { s with delays := rest } else { s with delays := rest }

/-- The micro-operation at `pc` performed; a closed frame is the instruction the tracker is to run (R25, R84). -/
def performMicroOp (len : Nat) (m : MicroOp) (s : State) : State × Option Instr :=
  match m with
  | .wait k => (waitStep len k s, none)
  | .set n v =>
    let r := lineWrite n v s
    (advance len r.1, r.2.map fun f => decodeSymbol (dataKind r.1) f.symbol)

/-- The request presented to the idle block (R27): taken from the caller's list and decoded; an ill-formed one is
refused (R80, R177) (log entry 25). With none presented the block does nothing (R190). -/
def presentRequest (s : State) : State × Option Instr :=
  match s.requests with
  | [] => (s, none)
  | w :: rest =>
    match decodeRequest w with
    | .ok i => ({ s with requests := rest }, some i)
    | .rejected _ => (refuse { s with requests := rest }, none)

/-- The block's step up to the instruction it runs: `none` where a busy block has no micro-operation at `pc`. -/
def fetch (s : State) : Option (State × Option Instr) :=
  match s.cur with
  | none => some (presentRequest s)
  | some op =>
    match (s.expansion op)[s.pc]? with
    | none => none
    | some m => some (performMicroOp (s.expansion op).length m s)

/-- `s` with the request word presented to an idle block. -/
def placeRequest (s : State) (w : RequestWord) : State :=
  { s with cur := none, pc := 0, requests := w :: s.requests }

/-- `s` with the transport call of the symbol's frame at its last micro-operation, `Set(CS,1)`: chip-select low, the
eight bits and the mode sampled, so that the next step closes that frame (log entry 24). -/
def placeSymbol (s : State) (w : SymbolWord) : State :=
  let f := frameOfSymbol w
  { s with
    cur := some (if f.mode then .writeData else .writeCommand)
    pc := 26
    latchA := f.byte.setWidth 16
    lines := { s.lines with cs := some false }
    rxOpen := true
    rxRs := some f.mode
    rxBits := msbFirst f.byte
    rxBad := false }

end Sys2Proof.Machine
end

