-- ==== Sys2Proof/Machine/Step.lean ====
section
/-! DEFINITION. One step of the machine (10_state.md R25, R27): what the block does, then the instruction it runs. -/

namespace Sys2Proof.Machine

/-- One step: the fetched state, run through the fetched instruction where there is one. -/
def step (s : State) : Host.Outcome State Fault Refusal :=
  match fetch s with
  | none => .fault .noMicroOperation
  | some (t, none) => .next t
  | some (t, some i) => exec i t

/-- `s` with the instruction of the table's word `w` placed where `step` fetches next: a request presented to the idle
block, a symbol as a frame about to close (log entries 2, 24). -/
def State.withFetchWord (s : State) (nbits w : Nat) : State :=
  if nbits ≤ 16 then placeSymbol s (BitVec.ofNat 9 w) else placeRequest s (BitVec.ofNat 67 w)

end Sys2Proof.Machine
end

