-- ==== Sys2Proof/Safety.lean ====
section
/-! DEFINITION. The terms in which claims are made: several steps, the invariants of the sequencer, the tracker, the
receiver and GRAM, what the block can see of a state, and the replay of a line trace. -/

namespace Sys2Proof.Machine

/-- `n` steps, stopping at a fault or a refusal. -/
def runSteps : Nat → State → Result
  | 0, s => .next s
  | n + 1, s =>
    match step s with
    | .next t => runSteps n t
    | .fault r => .fault r
    | .refused r => .refused r

/-- The end of a run: every request has been accepted and the sequencer is idle (R203). -/
def State.runEnded (s : State) : Prop := s.requests = [] ∧ s.cur = none

/-- The micro-operation is a wait (R18). -/
def MicroOp.isWait : MicroOp → Bool
  | .set _ _ => false
  | .wait _ => true

/-- The sequencer's invariant (R25): idle with `pc = 0`, or busy with `pc` an index of the expansion. -/
def State.sequenced (s : State) : Prop :=
  match s.cur with
  | none => s.pc = 0
  | some op => s.pc < (s.expansion op).length

/-- The number of data bytes the tracker collects for an opcode (R76, R143 to R149). -/
def parameterCount (o : Byte) : Nat :=
  if o = 0xC5 then 2 else if o = 0x36 then 1 else if o = 0x3A then 1 else if o = 0x2A then 4
  else if o = 0x2B then 4 else 0

/-- The tracker's fields after a reset pulse has begun, or before any (R39, R141). -/
def State.trackerCleared (s : State) : Prop :=
  s.win = none ∧ s.mac = none ∧ s.cmd = none ∧ s.need = 0 ∧ s.acc = [] ∧ s.caDone = none ∧ s.slpout = false ∧
    s.fmt16 = false ∧ s.half = none ∧ s.npix = 0

/-- The tracker's invariant: how the fields of R30 to R32 go together. -/
structure State.TrackerOk (s : State) : Prop where
  /-- nothing is kept in `Uninit` (R141) -/
  cleared : s.phase = .uninit → s.trackerCleared
  /-- a low reset line is the phase `Uninit` (R141) -/
  resetLow : s.lines.rst = some false → s.phase = .uninit
  /-- no command being collected, no byte owed (R32) -/
  owesNothing : s.cmd = none → s.need = 0
  /-- what is collected and what is owed make the command's count (R32, R76) -/
  owesRest : ∀ o, s.cmd = some o → 0 < s.need ∧ s.acc.length + s.need = parameterCount o
  /-- at most four bytes are collected (R32) -/
  accBound : s.acc.length ≤ 4
  /-- half a pixel is held only in an open stream (R152) -/
  halfInStream : s.half ≠ none → s.phase = .writing
  /-- a set window and an open stream have a window and owe nothing (R149, R150) -/
  windowHeld : s.phase = .windowed ∨ s.phase = .writing → s.win ≠ none ∧ s.need = 0
  /-- a complete column-address-set is kept only before the window is set (R148, R149) -/
  columnsBefore : s.caDone ≠ none → s.phase = .sleeping ∨ s.phase = .awakeIdle
  /-- the controller is awake only after sleep-out (R146, R147) -/
  awakeAfterSleepOut : s.phase = .awakeIdle ∨ s.phase = .windowed ∨ s.phase = .writing → s.slpout = true

/-- The receiver's invariant (R84): `rx_open` is chip-select low, and sampled bits come with a sampled mode. -/
structure State.ReceiverOk (s : State) : Prop where
  openWhileSelected : s.rxOpen = true ↔ s.lines.cs = some false
  modeWithBits : s.rxRs = none → s.rxBits = []

/-- GRAM's canonical form. -/
def State.gramOk (s : State) : Prop := Memory.wf s.gram

/-- What the block itself holds, (a) to (c) of R20, with its line trace and its two inputs. -/
structure BlockView where
  lines : Lines
  cur : Option Operation
  pc : Nat
  latchA : Half
  latchB : Half
  latchC : Half
  latchD : Half
  inited : Bool
  lt : List MicroOp
  requests : List RequestWord
  delays : List Nat
  deriving DecidableEq, Repr

/-- The block's view of a state: everything but the receiver, the tracker, the marks, `FT` and GRAM. -/
def State.block (s : State) : BlockView :=
  ⟨s.lines, s.cur, s.pc, s.latchA, s.latchB, s.latchC, s.latchD, s.inited, s.lt, s.requests, s.delays⟩

/-- What the receiver holds and has produced (R84). -/
structure ReceiverView where
  lines : Lines
  rxOpen : Bool
  rxRs : Option Level
  rxBits : List Level
  rxBad : Bool
  ft : List Frame
  draws : Nat
  deriving DecidableEq, Repr

/-- The receiver's part of a state. -/
def State.receiver (s : State) : ReceiverView :=
  ⟨s.lines, s.rxOpen, s.rxRs, s.rxBits, s.rxBad, s.ft, s.draws⟩

/-- One event of a line trace played to the receiver (R84). -/
def replayEvent (s : State) (e : MicroOp) : State :=
  match e with
  | .set n v => (lineWrite n v s).1
  | .wait _ => s

/-- A line trace played to the receiver from a state. -/
def replay (s : State) (lt : List MicroOp) : State := lt.foldl replayEvent s

/-- `FT` and the receiver's fields are what the receiver makes of `LT` from the reset state on (R34, R84), whatever the
number of the first draw. -/
def State.receivedFromTrace (s : State) : Prop :=
  ∃ d, s.receiver = (replay { State.reset with draws := d } s.lt).receiver

/-- Every code of `v` is in `w`. -/
def ViolSet.subset (v w : ViolSet) : Prop := ∀ c, v.has c = true → w.has c = true

/-- The fields that no frame's meaning touches: the block, the receiver, the two traces, the refusal mark, the count of
reset pulses (R140). -/
def State.sameButTracker (s t : State) : Prop :=
  t.block = s.block ∧ t.receiver = s.receiver ∧ t.refused = s.refused ∧ t.resets = s.resets

/-- The fields that no request's acceptance touches: lines, receiver, tracker, traces, GRAM, inputs (R27, R170). -/
def State.sameButSequencer (s t : State) : Prop :=
  t.lines = s.lines ∧ t.phase = s.phase ∧ t.win = s.win ∧ t.cmd = s.cmd ∧ t.need = s.need ∧ t.acc = s.acc ∧
    t.caDone = s.caDone ∧ t.slpout = s.slpout ∧ t.fmt16 = s.fmt16 ∧ t.half = s.half ∧ t.npix = s.npix ∧
    t.mac = s.mac ∧ t.receiver = s.receiver ∧ t.lt = s.lt ∧ t.gram = s.gram ∧ t.gramCalls = s.gramCalls ∧
    t.requests = s.requests ∧ t.delays = s.delays ∧ t.resets = s.resets

/-- The delay provider's reports reach every wait of the build (R18): with them, each wait is one step. -/
def enoughReports (delays : List Nat) : Prop :=
  5 ≤ delays.length ∧
    ∀ r ∈ delays, build.tStab ≤ r ∧ build.tPre ≤ r ∧ build.tRstLow ≤ r ∧ build.tRstPost ≤ r ∧ build.tSlpOut ≤ r

end Sys2Proof.Machine
end

