-- ==== Sys2Proof/Certificates/Slice0/Obligations.lean ====
section
/-! DEFINITION. The statements for the provers, in the order of the specification's files. Each docstring names the
rules it formalises; OBLIGATIONS.json holds the list. -/

open Sys2Proof Sys2Proof.Machine

/-! Reset and build -/

/-- R39, R190: every value the specification gives for the block's own reset. The four latches, which R39 leaves
unspecified, are not spoken of. Rests on decision D7. -/
def Obligations.ResetLeavesTheValuesOfTheTable : Prop :=
  (∀ n, State.reset.lines.get n = none) ∧ State.reset.cur = none ∧ State.reset.pc = 0 ∧
    State.reset.busy = false ∧ State.reset.inited = false ∧ State.reset.phase = .uninit ∧ State.reset.trackerCleared ∧
    State.reset.rxOpen = false ∧ State.reset.rxRs = none ∧ State.reset.rxBits = [] ∧
    (∀ c, State.reset.viol.has c = false) ∧ State.reset.refused = false ∧ State.reset.lt = [] ∧ State.reset.ft = []

/-- R9, R15, R195: the machine's build meets the minima and its line order is a permutation of the six lines,
whatever the open constants are. Rests on log entries 9, 10; decisions D8, D9. -/
def Obligations.BuildMeetsTheMinima : Prop := build.legal

/-! Encodings -/

/-- R74, R76, R79, R80, R154: decoding what the encoder gives for a well-formed instruction gives it back, every
operand at every value; a data symbol's row is the one the tracker's state names. Rests on decision D2; log entry
13. -/
def Obligations.DecodeOfEncodeIsTheInstruction : Prop :=
  ∀ (k : DataKind) (i : Instr), i.wellFormed = true → (i.dataKind = none ∨ i.dataKind = some k) →
    decode k (encode i) = .ok i

/-- R74, R78: encoding what the decoder gives for a word gives the word back, no bit dropped, and the instruction is
well formed. Rests on decision D2; log entry 22. -/
def Obligations.EncodeOfDecodeIsTheWord : Prop :=
  ∀ (k : DataKind) (w : Wire) (i : Instr), decode k w = .ok i → encode i = w ∧ i.wellFormed = true

/-- R80: the request words that are rejected are exactly those with `op ∈ {0,1,2}` and `a[15:8] ≠ 0`. Rests on
decision D5. -/
def Obligations.OnlyIllFormedRequestsAreRejected : Prop :=
  ∀ w : RequestWord, (∃ e, decodeRequest w = .rejected e) ↔ (reqOp w).toNat < 3 ∧ 256 ≤ (reqA w).toNat

/-- R76, R79 and 95_test_vectors.md V1, V4, V5, V9, V20, V30, V40: words written out there decode to the
instructions they stand for. Rests on decision D2; log entry 13. -/
def Obligations.WordsOfTheVectorsDecode : Prop :=
  decodeTableWord 72 0x000A5000000000000 = some (.writeByte 0xA5 0 0 0) ∧
  decodeTableWord 72 0x1002C000000000000 = some (.writeCommand 0x2C 0 0 0) ∧
  decodeTableWord 72 0x20055000000000000 = some (.writeData 0x55 0 0 0) ∧
  decodeTableWord 72 0x30000000000000000 = some (.initDisplay 0 0 0 0) ∧
  decodeTableWord 72 0x4000000EF0000013F = some (.setAddressWindow 0 239 0 319) ∧
  decodeTableWord 72 0x5000A0014F8000000 = some (.drawPixel 10 20 0xF800 0) ∧
  decodeTableWord 72 0x7FFFFFFFFFFFFFFFF = some (.reservedReq 7 0xFFFF 0xFFFF 0xFFFF 0xFFFF) ∧
  decodeTableWord 72 0x1012C000000000000 = none ∧
  decodeTableWord 16 0x02A = some .columnAddressSet ∧
  decodeTableWord 16 0x12A = some (.dataParameter 0x2A) ∧
  decodeTableWord 16 0x028 = some (.commandUnlisted 0x28)

/-- R77, R133: operand assembly: the 16-bit split, which loses nothing, and the increment modulo 2^16. Rests on
decision D4. -/
def Obligations.OperandAssemblySplitsAndIncrements : Prop :=
  (∀ v : Half, (hi8 v).toNat = v.toNat / 256 ∧ (lo8 v).toNat = v.toNat % 256) ∧
  (∀ h l : Byte, hi8 (pair h l) = h ∧ lo8 (pair h l) = l) ∧
  (∀ v : Half, (inc16 v).toNat = (v.toNat + 1) % 65536)

/-- R72: the index table of the byte body. -/
def Obligations.ByteBodyIsEightCellsMostSignificantFirst : Prop :=
  ∀ b : Byte, (byteBody b).length = 24 ∧
    ∀ j, j < 8 →
      (byteBody b)[3 * j]? = some (.set .clk false) ∧
      (byteBody b)[3 * j + 1]? = some (.set .data (b.getLsbD (7 - j))) ∧
      (byteBody b)[3 * j + 2]? = some (.set .clk true)

/-- R73: the index table of the frame, and the command and data frames. -/
def Obligations.FrameFollowsItsIndexTable : Prop :=
  (∀ b : Byte, commandOps b = frameOps ⟨false, b⟩ ∧ dataOps b = frameOps ⟨true, b⟩) ∧
  ∀ f : Frame, (frameOps f).length = 27 ∧
    (frameOps f)[0]? = some (.set .cs false) ∧ (frameOps f)[1]? = some (.set .rs f.mode) ∧
    (frameOps f)[26]? = some (.set .cs true) ∧
    ∀ j, j < 8 →
      (frameOps f)[2 + 3 * j]? = some (.set .clk false) ∧
      (frameOps f)[3 + 3 * j]? = some (.set .data (f.byte.getLsbD (7 - j))) ∧
      (frameOps f)[4 + 3 * j]? = some (.set .clk true)

/-- R85: line writes and waits of every expansion, for every build R9 and R15 admit. Rests on a derived rule of the
spec, from the expansions. -/
def Obligations.ExpansionsHaveTheirSizes : Prop :=
  ∀ (p : Config.Params) (a b c d : Half), p.legal →
    let waits (op : Operation) := ((expansion p op a b c d).filter MicroOp.isWait).length
    let total (op : Operation) := (expansion p op a b c d).length
    (total .writeByte = 24 ∧ waits .writeByte = 0) ∧ (total .writeCommand = 27 ∧ waits .writeCommand = 0) ∧
    (total .writeData = 27 ∧ waits .writeData = 0) ∧ (total .setAddressWindow = 297 ∧ waits .setAddressWindow = 0) ∧
    (total .drawPixel = 351 ∧ waits .drawPixel = 0) ∧
    (total .initDisplay = (if p.eagerRamwr then 284 else 257) ∧ waits .initDisplay = 5)

/-- R120 to R128, R191: `initialize`: the six lines driven high in the build's order and the stabilisation wait, the
reset pulse with its waits, and nine frames with the sleep-out wait after the eighth, a tenth where the build sends
the eager memory write. Rests on decisions D8, D9, D10, D11. -/
def Obligations.InitializeFollowsItsSteps : Prop :=
  ∀ p : Config.Params, p.legal →
    (initDisplayOps p).take 13 =
      p.lineOrder.map (fun n => MicroOp.set n true) ++
        [.wait p.tStab, .set .rst true, .wait p.tPre, .set .rst false, .wait p.tRstLow, .set .rst true,
          .wait p.tRstPost] ∧
    (∀ n : Line, ∃ i, i < 6 ∧ (initDisplayOps p)[i]? = some (.set n true)) ∧
    (initDisplayOps p).drop 13 =
      ([⟨false, 0xC5⟩, ⟨true, p.vcomH⟩, ⟨true, p.vcomL⟩, ⟨false, 0x36⟩, ⟨true, p.madctl⟩, ⟨false, 0x3A⟩, ⟨true, 0x55⟩,
          ⟨false, 0x11⟩] : List Frame).flatMap frameOps ++
        [.wait p.tSlpOut] ++ frameOps ⟨false, 0x29⟩ ++ (if p.eagerRamwr then frameOps ⟨false, 0x2C⟩ else [])

/-- R83: the composed operations are the concatenations of the transport calls they stand for. Rests on decision D4
for inc16. -/
def Obligations.ComposedOperationsEqualTheirExpansions : Prop :=
  ∀ (p : Config.Params) (a b c d z : Half),
    let cmd (o : Byte) := expansion p .writeCommand (o.setWidth 16) z z z
    let dat (v : Byte) := expansion p .writeData (v.setWidth 16) z z z
    let body (v : Byte) := expansion p .writeByte (v.setWidth 16) z z z
    (∀ o, cmd o = [.set .cs false, .set .rs false] ++ body o ++ [.set .cs true]) ∧
    (∀ v, dat v = [.set .cs false, .set .rs true] ++ body v ++ [.set .cs true]) ∧
    expansion p .setAddressWindow a b c d =
      cmd 0x2A ++ dat (hi8 a) ++ dat (lo8 a) ++ dat (hi8 b) ++ dat (lo8 b) ++
      cmd 0x2B ++ dat (hi8 c) ++ dat (lo8 c) ++ dat (hi8 d) ++ dat (lo8 d) ++ cmd 0x2C ∧
    expansion p .drawPixel a b c d =
      expansion p .setAddressWindow b (inc16 b) a (inc16 a) ++ dat (hi8 c) ++ dat (lo8 c)

/-! Acceptance of requests -/

/-- R27, R26, R28, R79, R176: a request for one of the five operations other than `initialize`, presented to the
idle block, is accepted: `cur`, `pc` and the latches are set, `V_UNINIT` is flagged unless `initialize` came before,
and nothing else changes. Rests on decisions D2, D3, D14; log entry 22. -/
def Obligations.IdleBlockAcceptsOperations : Prop :=
  ∀ s : State, s.cur = none →
    let checked := if s.inited then s.viol else s.viol.add .uninit
    (∀ (v : Byte) (b c d : Half), exec (.writeByte v b c d) s = .next
      { s with cur := some .writeByte, pc := 0, latchA := v.setWidth 16, latchB := b, latchC := c, latchD := d,
               viol := checked }) ∧
    (∀ (v : Byte) (b c d : Half), exec (.writeCommand v b c d) s = .next
      { s with cur := some .writeCommand, pc := 0, latchA := v.setWidth 16, latchB := b, latchC := c, latchD := d,
               viol := checked }) ∧
    (∀ (v : Byte) (b c d : Half), exec (.writeData v b c d) s = .next
      { s with cur := some .writeData, pc := 0, latchA := v.setWidth 16, latchB := b, latchC := c, latchD := d,
               viol := checked }) ∧
    (∀ a b c d : Half, exec (.setAddressWindow a b c d) s = .next
      { s with cur := some .setAddressWindow, pc := 0, latchA := a, latchB := b, latchC := c, latchD := d,
               viol := checked }) ∧
    (∀ a b c d : Half, exec (.drawPixel a b c d) s = .next
      { s with cur := some .drawPixel, pc := 0, latchA := a, latchB := b, latchC := c, latchD := d,
               viol := checked })

/-- R27, R28, R176: `initialize` presented to the idle block is accepted, `inited` is set, and `V_REINIT` is flagged
if it was set before. Rests on decisions D2, D3, D14; log entry 22. -/
def Obligations.IdleBlockAcceptsInitialize : Prop :=
  ∀ (s : State) (a b c d : Half), s.cur = none →
    exec (.initDisplay a b c d) s = .next
      { s with cur := some .initDisplay, pc := 0, latchA := a, latchB := b, latchC := c, latchD := d, inited := true,
               viol := if s.inited then s.viol.add .reinit else s.viol }

/-- R80, R177: a reserved request presented to the idle block sets the refusal mark and changes nothing else that
the rules name. What the latches then hold is left open by the rules, and so here. Rests on decision D6; log entry
8. -/
def Obligations.ReservedRequestIsRefused : Prop :=
  ∀ (s : State) (op : BitVec 3) (a b c d : Half), s.cur = none →
    ∃ wa wb wc wd, exec (.reservedReq op a b c d) s = .next
      { s with refused := true, latchA := wa, latchB := wb, latchC := wc, latchD := wd }

/-- R80, R177: a step of the idle block with a reserved or ill-formed request presented consumes it, performs no
micro-operation and sets the refusal mark; lines, traces, tracker, flags stay. Rests on decisions D5, D6; log
entries 2, 8. -/
def Obligations.StepRefusesReservedAndIllFormedRequests : Prop :=
  ∀ (s : State) (w : RequestWord) (rest : List RequestWord), s.cur = none → s.requests = w :: rest →
    (6 ≤ (reqOp w).toNat ∨ (reqOp w).toNat < 3 ∧ 256 ≤ (reqA w).toNat) →
    ∃ wa wb wc wd, step s = .next
      { s with requests := rest, refused := true, latchA := wa, latchB := wb, latchC := wc, latchD := wd }

/-- R27, R201: while the block is busy a request has no step: its meaning leaves the state as it is. Rests on
decision D3; log entry 16. -/
def Obligations.RequestIsHeldWhileBusy : Prop :=
  ∀ (s : State) (i : Instr), s.cur ≠ none → i.isRequest = true → exec i s = .next s

/-- R27, R170, R176: what no request's acceptance or refusal changes: lines, receiver, tracker, traces, GRAM (every
address reads as before), inputs. Rests on decisions D3, D14; log entries 2, 3, 11, 12, 27. -/
def Obligations.RequestsChangeOnlyTheSequencerAndMarks : Prop :=
  ∀ (s t : State) (i : Instr), i.isRequest = true → exec i s = .next t →
    s.sameButSequencer t ∧ ∀ a, Memory.read t.gram a = Memory.read s.gram a

/-! The step -/

/-- R27, R190, R203: a step runs the decoded request: the idle block takes the presented request from the caller's
list and runs its instruction; once the run has ended, every request accepted and the block idle, a step does
nothing. Rests on decisions D3, D7, D15; log entry 2. -/
def Obligations.StepRunsThePresentedRequest : Prop :=
  (∀ (s : State) (w : RequestWord) (rest : List RequestWord) (i : Instr),
    s.cur = none → s.requests = w :: rest → decodeRequest w = .ok i →
    i.wellFormed = true ∧ step s = exec i { s with requests := rest }) ∧
  (∀ s : State, s.runEnded → step s = .next s)

/-- A step runs the decoded frame: where the micro-operation at `pc` raises chip-select on eight good bits, `FT`
gains the frame, the sequencer advances, and the frame's instruction runs (R25, R84). Rests on decisions D3, D18;
log entry 6 for rxBad. -/
def Obligations.StepRunsTheClosedFrame : Prop :=
  ∀ (s : State) (op : Operation) (m : Level), s.cur = some op → (s.expansion op)[s.pc]? = some (.set .cs true) →
    s.lines.cs = some false → s.rxBits.length = 8 → s.rxBad = false → s.rxRs = some m →
    let f : Frame := ⟨m, byteOf s.rxBits⟩
    let ended : Bool := s.pc + 1 = (s.expansion op).length
    step s = exec (decodeSymbol (dataKind s) f.symbol)
      { s with lines := { s.lines with cs := some true }, lt := s.lt ++ [.set .cs true], ft := s.ft ++ [f],
               rxOpen := false, cur := if ended then none else some op, pc := if ended then 0 else s.pc + 1 }

/-- R17, R25: a step at a line write sets that register alone, appends the event also when the level does not
change, and advances `pc` by one or, at the expansion's end, returns to idle. Rests on decisions D1, D3. -/
def Obligations.StepPerformsTheLineWrite : Prop :=
  ∀ (s : State) (op : Operation) (n : Line) (v : Level), s.cur = some op →
    (s.expansion op)[s.pc]? = some (.set n v) →
    ∃ t, step s = .next t ∧ t.lines.get n = some v ∧ (∀ m, m ≠ n → t.lines.get m = s.lines.get m) ∧
      t.lt = s.lt ++ [.set n v] ∧
      (if s.pc + 1 = (s.expansion op).length then t.cur = none ∧ t.pc = 0 else t.cur = some op ∧ t.pc = s.pc + 1)

/-- R18: a `Wait(0)` performed completes at once, and a step at a `Wait(k)` completes it when the delay provider
reports at least `k` time-units; nothing but the sequencer and the line trace moves. That a report is the next
number of `delays` is the model's choice (log entry 3), and so is that the event is appended at the end (log entry
4). Rests on decision D21; log entries 3, 4. -/
def Obligations.WaitCompletesOnAReport : Prop :=
  (∀ (s : State) (len : Nat),
    let ended : Bool := s.pc + 1 = len
    performMicroOp len (.wait 0) s =
      ({ s with lt := s.lt ++ [.wait 0], cur := if ended then none else s.cur, pc := if ended then 0 else s.pc + 1 },
        none)) ∧
  (∀ (s : State) (op : Operation) (k r : Nat) (rest : List Nat), s.cur = some op →
    (s.expansion op)[s.pc]? = some (.wait k) → k ≠ 0 → s.delays = r :: rest → k ≤ r →
    let ended : Bool := s.pc + 1 = (s.expansion op).length
    step s = .next { s with lt := s.lt ++ [.wait k], delays := rest, cur := if ended then none else some op,
                            pc := if ended then 0 else s.pc + 1 })

/-- R18, R201: a wait does not complete early: a report below `k` leaves it in progress, and with no report the
block stays busy for ever. That a report is the next number of `delays`, and that `LT` has no event of a wait in
progress, are the model's choices (log entries 3, 4). Rests on decisions D3, D21; log entries 3, 4. -/
def Obligations.WaitNeverCompletesEarly : Prop :=
  ∀ (s : State) (op : Operation) (k : Nat), s.cur = some op → (s.expansion op)[s.pc]? = some (.wait k) → k ≠ 0 →
    (∀ r rest, s.delays = r :: rest → r < k → step s = .next { s with delays := rest }) ∧
    (s.delays = [] → ∀ n, runSteps n s = .next s)

/-- R26, R27, R201: while the block is busy no request is taken and no latch is written. Rests on decisions D2, D3;
log entry 2. -/
def Obligations.BusyStepHoldsRequestsAndLatches : Prop :=
  ∀ s t : State, s.cur ≠ none → step s = .next t →
    t.requests = s.requests ∧ t.latchA = s.latchA ∧ t.latchB = s.latchB ∧ t.latchC = s.latchC ∧ t.latchD = s.latchD ∧
      t.inited = s.inited ∧ t.refused = s.refused

/-- R23, R180: which operation writes which line; only `initialize` touches RST and BL, nothing drives BL low, and
no idle step writes a line. Rests on a derived rule of the spec, from the expansions. -/
def Obligations.EachOperationWritesItsOwnLines : Prop :=
  ∀ s t : State, step s = .next t →
    (s.cur = none → t.lines = s.lines) ∧
    (s.cur = some .writeByte → ∀ n, n ≠ .clk → n ≠ .data → t.lines.get n = s.lines.get n) ∧
    (s.cur ≠ some .initDisplay → t.lines.rst = s.lines.rst ∧ t.lines.bl = s.lines.bl) ∧
    (t.lines.bl = s.lines.bl ∨ t.lines.bl = some true) ∧
    (∀ n, t.lines.get n = none → s.lines.get n = none)

/-! The receiver -/

/-- R84, the opening: chip-select written low from any other level opens a frame, with nothing sampled; written low
again it changes nothing at the receiver. Rests on decision D18; log entry 6 for rxBad. -/
def Obligations.ChipSelectFallOpensAFrame : Prop :=
  ∀ s : State,
    let t := (lineWrite .cs false s).1
    (lineWrite .cs false s).2 = none ∧ t.ft = s.ft ∧ t.viol = s.viol ∧
    (s.lines.cs ≠ some false → t.rxOpen = true ∧ t.rxBits = [] ∧ t.rxRs = none ∧ t.rxBad = false) ∧
    (s.lines.cs = some false →
      t.rxOpen = s.rxOpen ∧ t.rxBits = s.rxBits ∧ t.rxRs = s.rxRs ∧ t.rxBad = s.rxBad)

/-- R84, the sample: a rising clock under chip-select samples the data line and, the first time, the mode line; an
undriven line or a changed mode is `V_FRAME`; any other clock write has no effect on the receiver. Rests on decision
D18; log entry 6. -/
def Obligations.RisingClockSamplesUnderChipSelect : Prop :=
  ∀ s : State,
    let t := (lineWrite .clk true s).1
    (s.lines.clk = some false ∧ s.lines.cs = some false →
      (∀ v m, s.lines.data = some v → s.lines.rs = some m → (s.rxRs = none ∨ s.rxRs = some m) →
        t.rxBits = s.rxBits ++ [v] ∧ t.rxRs = some m ∧ t.rxBad = s.rxBad ∧ t.viol = s.viol) ∧
      (s.lines.data = none ∨ s.lines.rs = none ∨ (s.rxRs ≠ none ∧ s.rxRs ≠ s.lines.rs) →
        t.rxBad = true ∧ t.viol = s.viol.add .frame ∧ t.rxBits.length = s.rxBits.length + 1) ∧
      t.ft = s.ft ∧ t.rxOpen = s.rxOpen) ∧
    (¬(s.lines.clk = some false ∧ s.lines.cs = some false) →
      t.receiver = { s.receiver with lines := s.lines.put .clk true } ∧ t.viol = s.viol)

/-- R84, the close: a rising chip-select on eight good bits appends the frame; on no bits it does nothing; on any
other count, or after a `V_FRAME` in this frame, it is `V_FRAME` and nothing is appended. Rests on decision D18; log
entry 6. -/
def Obligations.ChipSelectRiseClosesTheFrame : Prop :=
  ∀ (s : State), s.lines.cs = some false →
    let t := (lineWrite .cs true s).1
    t.rxOpen = false ∧
    (∀ m, s.rxBits.length = 8 → s.rxBad = false → s.rxRs = some m →
      (lineWrite .cs true s).2 = some ⟨m, byteOf s.rxBits⟩ ∧ t.ft = s.ft ++ [⟨m, byteOf s.rxBits⟩] ∧
        t.viol = s.viol) ∧
    (s.rxBits = [] → (lineWrite .cs true s).2 = none ∧ t.ft = s.ft ∧ t.viol = s.viol) ∧
    (s.rxBits ≠ [] → s.rxBits.length ≠ 8 ∨ s.rxBad = true →
      (lineWrite .cs true s).2 = none ∧ t.ft = s.ft ∧ t.viol = s.viol.add .frame)

/-- R100, R105: `writeByte` performed with chip-select not low: 24 steps, the lines at the byte's last bit and a
high clock, and nothing received. Rests on decision D24. -/
def Obligations.WriteByteAloneDeliversNothing : Prop :=
  ∀ s : State, s.cur = some .writeByte → s.pc = 0 → s.lines.cs ≠ some false →
    runSteps 24 s = .next
      { s with lines := { s.lines with data := some ((lo8 s.latchA).getLsbD 0), clk := some true },
               cur := none, pc := 0, lt := s.lt ++ byteBody (lo8 s.latchA) }

/-- R84, R101, R102, R103: `writeCommand` and `writeData` performed with chip-select not low: after 27 steps the
line trace holds the frame's 27 writes, the receiver has appended exactly its frame, the lines are as R103 says, and
the frame's instruction has run. Rests on decisions D3, D18; log entry 6 for rxBad. -/
def Obligations.TransportCallDeliversExactlyItsFrame : Prop :=
  ∀ (s : State) (f : Frame), s.cur = some (if f.mode then .writeData else .writeCommand) → s.pc = 0 →
    lo8 s.latchA = f.byte → s.lines.cs ≠ some false →
    runSteps 27 s = exec (decodeSymbol (dataKind s) f.symbol)
      { s with lines := { s.lines with cs := some true, rs := some f.mode, data := some (f.byte.getLsbD 0),
                                       clk := some true },
               cur := none, pc := 0, lt := s.lt ++ frameOps f, ft := s.ft ++ [f],
               rxOpen := false, rxRs := some f.mode, rxBits := msbFirst f.byte, rxBad := false }

/-! The tracker -/

/-- R141: the two events of the reset line; a line driven high that has not been low is neither. A rise in another
phase than `Uninit`, which no run shows, takes the default of R140 (log entry 20) and is not spoken of. What the
pulse leaves in GRAM, open in the specification, is an open function's answer (log entry 27). Rests on decisions
D12, D13; log entry 27. -/
def Obligations.ResetPulseClearsAndReleasesTheTracker : Prop :=
  ∀ s : State,
    (s.lines.rst ≠ some false → (lineWrite .rst false s).1 =
      { s with phase := .uninit, win := none, mac := none, cmd := none, need := 0, acc := [], caDone := none,
               slpout := false, fmt16 := false, half := none, npix := 0,
               gram := Memory.writeAll [] (Config.gramAfterReset s.resets s.gram), resets := s.resets + 1,
               lines := { s.lines with rst := some false }, lt := s.lt ++ [.set .rst false] }) ∧
    (s.lines.rst = some false → s.phase = .uninit → (lineWrite .rst true s).1 =
      { s with phase := .sleeping, lines := { s.lines with rst := some true }, lt := s.lt ++ [.set .rst true] }) ∧
    (s.lines.rst ≠ some false → (lineWrite .rst true s).1 =
      { s with lines := { s.lines with rst := some true }, lt := s.lt ++ [.set .rst true] }) ∧
    (s.lines.rst = some false → (lineWrite .rst false s).1 =
      { s with lines := { s.lines with rst := some false }, lt := s.lt ++ [.set .rst false] })

/-- R140: in phase `Uninit` every frame flags `V_UNLISTED` and changes nothing else. Rests on decision D12. -/
def Obligations.FramesBeforeTheResetPulseAreUnlisted : Prop :=
  ∀ (s : State) (i : Instr), s.phase = .uninit → i.isRequest = false →
    exec i s = .next { s with viol := s.viol.add .unlisted }

/-- R142: the part common to every command frame. Rests on decisions D13, D22. -/
def Obligations.CommandFrameEndsWhatWasOpen : Prop :=
  ∀ (o : Byte) (s : State),
    let v1 := if s.need > 0 then s.viol.add .short else s.viol
    let v2 := if s.half ≠ none then v1.add .halfpix else v1
    commandCommon o s =
      { s with
        cmd := if s.need > 0 then none else s.cmd
        need := 0
        acc := if s.need > 0 then [] else s.acc
        half := none
        phase := if s.phase = .writing ∨ s.phase = .windowed ∧ o ≠ 0x2C then .awakeIdle else s.phase
        viol := if s.phase = .windowed ∧ o ≠ 0x2C then v2.add .worder else v2
        caDone := if o = 0x2B then s.caDone else none }

/-- R143: VCOM control, and its two data bytes, on the second of which nothing further happens. Rests on log entry
23 for acc after the last byte; decision D13 for the common part. -/
def Obligations.VcomControlIsOwedTwoBytes : Prop :=
  (∀ s : State, s.phase ≠ .uninit →
    let c := commandCommon 0xC5 s
    exec .vcomControl s = .next
      { c with cmd := some 0xC5, need := 2, acc := [],
               viol := if c.phase = .sleeping then c.viol else c.viol.add .unlisted }) ∧
  (∀ (s : State) (b : Byte), s.phase ≠ .uninit → s.cmd = some 0xC5 → s.need = 1 →
    exec (.dataParameter b) s = .next { s with acc := s.acc ++ [b], need := 0, cmd := none })

/-- R144: memory access control, and its byte. Rests on log entry 23 for acc after the last byte; decision D13 for
the common part. -/
def Obligations.MemoryAccessControlKeepsItsByte : Prop :=
  (∀ s : State, s.phase ≠ .uninit →
    let c := commandCommon 0x36 s
    exec .memoryAccessControl s = .next
      { c with cmd := some 0x36, need := 1, acc := [],
               viol := if c.phase = .sleeping then c.viol else c.viol.add .unlisted }) ∧
  (∀ (s : State) (b : Byte), s.phase ≠ .uninit → s.cmd = some 0x36 → s.need = 1 →
    exec (.dataParameter b) s = .next { s with acc := s.acc ++ [b], need := 0, cmd := none, mac := some b })

/-- R145: pixel-format set, and its byte, of which only 0x55 is the 16-bit format. Rests on log entry 23 for acc
after the last byte; decision D13 for the common part. -/
def Obligations.PixelFormatSetTakesOnlySixteenBits : Prop :=
  (∀ s : State, s.phase ≠ .uninit →
    let c := commandCommon 0x3A s
    exec .pixelFormatSet s = .next
      { c with cmd := some 0x3A, need := 1, acc := [],
               viol := if c.phase = .sleeping then c.viol else c.viol.add .unlisted }) ∧
  (∀ (s : State) (b : Byte), s.phase ≠ .uninit → s.cmd = some 0x3A → s.need = 1 →
    exec (.dataParameter b) s = .next { s with acc := s.acc ++ [b], need := 0, cmd := none, fmt16 := b == 0x55 })

/-- R146: sleep out. -/
def Obligations.SleepOutIsListedWhileSleeping : Prop :=
  ∀ s : State, s.phase ≠ .uninit →
    let c := commandCommon 0x11 s
    exec .sleepOut s = .next
      (if c.phase = .sleeping then { c with cmd := none, need := 0, slpout := true }
       else { c with cmd := none, need := 0, viol := c.viol.add .unlisted })

/-- R147: display on, listed only after sleep-out. -/
def Obligations.DisplayOnWakesAfterSleepOut : Prop :=
  ∀ s : State, s.phase ≠ .uninit →
    let c := commandCommon 0x29 s
    exec .displayOn s = .next
      (if c.phase = .sleeping ∧ c.slpout = true then { c with cmd := none, need := 0, phase := .awakeIdle }
       else { c with cmd := none, need := 0, viol := c.viol.add .unlisted })

/-- R148: column address set, and its fourth byte. Rests on log entry 23 for acc after the last byte; decision D13
for the common part. -/
def Obligations.ColumnAddressSetCollectsItsPair : Prop :=
  (∀ s : State, s.phase ≠ .uninit →
    let c := commandCommon 0x2A s
    exec .columnAddressSet s = .next
      { c with cmd := some 0x2A, need := 4, acc := [],
               viol := if c.phase = .awakeIdle then c.viol else c.viol.add .unlisted }) ∧
  (∀ (s : State) (b0 b1 b2 b : Byte), s.phase ≠ .uninit → s.cmd = some 0x2A → s.need = 1 → s.acc = [b0, b1, b2] →
    exec (.dataParameter b) s = .next
      { s with acc := [b0, b1, b2, b], need := 0, cmd := none, caDone := some (b0 ++ b1, b2 ++ b) })

/-- R149: page address set, and its fourth byte, which sets the window if the columns are there. Rests on log entry
21; log entry 23 for acc after the last byte; decision D13 for the common part. -/
def Obligations.PageAddressSetSetsTheWindow : Prop :=
  (∀ s : State, s.phase ≠ .uninit →
    let c := commandCommon 0x2B s
    exec .pageAddressSet s = .next
      { c with cmd := some 0x2B, need := 4, acc := [],
               viol := if c.phase = .awakeIdle then (if c.caDone = none then c.viol.add .worder else c.viol)
                       else c.viol.add .unlisted }) ∧
  (∀ (s : State) (b0 b1 b2 b : Byte), s.phase ≠ .uninit → s.cmd = some 0x2B → s.need = 1 → s.acc = [b0, b1, b2] →
    (∀ cs ce, s.caDone = some (cs, ce) → s.phase = .awakeIdle →
      exec (.dataParameter b) s = .next
        { s with acc := [b0, b1, b2, b], need := 0, cmd := none, caDone := none, phase := .windowed,
                 win := some ⟨cs, ce, b0 ++ b1, b2 ++ b⟩ }) ∧
    (s.caDone = none ∨ s.phase ≠ .awakeIdle →
      exec (.dataParameter b) s = .next { s with acc := [b0, b1, b2, b], need := 0, cmd := none }))

/-- R150: memory write opens the stream of a set window, changes nothing when awake and idle, and is unlisted while
sleeping. -/
def Obligations.MemoryWriteOpensTheStream : Prop :=
  ∀ s : State, s.phase ≠ .uninit →
    let c := commandCommon 0x2C s
    (c.phase = .windowed → exec .memoryWrite s = .next
      { c with cmd := none, need := 0, phase := .writing, npix := 0, half := none,
               viol := if c.fmt16 then c.viol else c.viol.add .fmt }) ∧
    (c.phase = .awakeIdle → exec .memoryWrite s = .next { c with cmd := none, need := 0 }) ∧
    (c.phase = .sleeping → exec .memoryWrite s = .next
      { c with cmd := none, need := 0, viol := c.viol.add .unlisted }) ∧
    (c.phase = .windowed ∨ c.phase = .awakeIdle ∨ c.phase = .sleeping)

/-- R151: a data byte that is not the last one owed is collected. Rests on decision D13 for the bookkeeping fields.
-/
def Obligations.ParameterByteIsCollected : Prop :=
  ∀ (s : State) (b : Byte), s.phase ≠ .uninit → 1 < s.need →
    exec (.dataParameter b) s = .next { s with acc := s.acc ++ [b], need := s.need - 1 }

/-- R152: a pixel's first byte is held; its second completes the pixel, whose colour has the first byte high, and
calls `GramStore`. Rests on decision D16; log entries 11, 12. -/
def Obligations.PixelBytesPairUpHighByteFirst : Prop :=
  ∀ (s : State) (b : Byte), s.phase = .writing → s.need = 0 →
    (s.half = none → exec (.dataPixel b) s = .next { s with half := some b }) ∧
    (∀ h, s.half = some h → exec (.dataPixel b) s = .next
      { s with half := none, npix := s.npix + 1,
               gramCalls := s.gramCalls ++ [⟨s.mac, s.win, s.npix, h ++ b⟩],
               gram := Memory.writeAll s.gram (Config.gramStore s.mac s.win s.npix (h ++ b)) })

/-- R66, R152: what a completed pixel leaves in GRAM: an address that the open function's answer names reads as the
last value named for it, every other address as before. Rests on decision D16; log entry 11. -/
def Obligations.PixelStoreChangesOnlyWhatGramStoreNames : Prop :=
  ∀ (s t : State) (b h : Byte), s.phase = .writing → s.need = 0 → s.half = some h →
    exec (.dataPixel b) s = .next t →
    ∀ a, Memory.read t.gram a =
      match (Config.gramStore s.mac s.win s.npix (h ++ b)).reverse.find? (fun w => gramAddress w.ca w.pa == a) with
      | some w => some w.value
      | none => Memory.read s.gram a

/-- R153: a data byte that nothing receives flags `V_STRAYDATA` and changes nothing else. -/
def Obligations.StrayDataIsFlagged : Prop :=
  ∀ (s : State) (b : Byte), s.need = 0 → s.phase = .sleeping ∨ s.phase = .awakeIdle ∨ s.phase = .windowed →
    exec (.dataStray b) s = .next { s with viol := s.viol.add .straydata }

/-- R154: any other command. -/
def Obligations.UnlistedCommandIsFlagged : Prop :=
  ∀ (s : State) (o : Byte), s.phase ≠ .uninit → Instr.wellFormed (.commandUnlisted o) = true →
    let c := commandCommon o s
    exec (.commandUnlisted o) s = .next { c with cmd := none, need := 0, viol := c.viol.add .unlisted }

/-- R20, R140: what no frame changes: the block, the receiver, the traces, the refusal mark; and, but for the second
byte of a pixel, every address of GRAM reads as before. Rests on decision D12; log entries 11, 12, 27. -/
def Obligations.FramesChangeOnlyTheTracker : Prop :=
  ∀ (s t : State) (i : Instr), i.isRequest = false → exec i s = .next t →
    s.sameButTracker t ∧
    ((i.dataKind = none ∨ s.phase ≠ .writing ∨ s.need ≠ 0 ∨ s.half = none) →
      t.gramCalls = s.gramCalls ∧ ∀ a, Memory.read t.gram a = Memory.read s.gram a)

/-! Whole-machine rules -/

/-- R20, R33, R173: the tracker, the receiver, the marks and GRAM never influence the block: two states that agree
on the block and its inputs step alike, and go on agreeing, line trace included. Rests on decision D12; log entries
2, 3. -/
def Obligations.BlockNeverDependsOnTheTracker : Prop :=
  ∀ s t : State, s.block = t.block →
    (∃ s' t', step s = .next s' ∧ step t = .next t' ∧ s'.block = t'.block) ∨
    (step s = .fault .noMicroOperation ∧ step t = .fault .noMicroOperation)

/-- R28, R33, R174, R177: the violation set only grows, and `refused` and `inited` are never cleared. Rests on
decisions D12, D14. -/
def Obligations.MarksAreNeverCleared : Prop :=
  ∀ s t : State, step s = .next t →
    s.viol.subset t.viol ∧ (s.refused = true → t.refused = true) ∧ (s.inited = true → t.inited = true)

/-- R34: both traces only grow, `LT` by at most the one event performed and `FT` by at most one frame. Rests on
decision D1. -/
def Obligations.TracesOnlyGrow : Prop :=
  ∀ s t : State, step s = .next t →
    (t.lt = s.lt ∨ ∃ e, t.lt = s.lt ++ [e]) ∧ (t.ft = s.ft ∨ ∃ f, t.ft = s.ft ++ [f])

/-- R25, R170: the sequencer's invariant: from a state with a legal `pc` a step never faults and keeps it legal.
Rests on decision D3; log entry 14. -/
def Obligations.SequencedStepNeverFaults : Prop :=
  ∀ s : State, s.sequenced → ∃ t, step s = .next t ∧ t.sequenced

/-- R30 to R32, R141 to R152: the tracker's invariant is kept by every step. Rests on decision D13. -/
def Obligations.StepKeepsTheTrackerConsistent : Prop :=
  ∀ s t : State, s.TrackerOk → step s = .next t → t.TrackerOk

/-- R84: the receiver's invariant is kept by every step. Rests on decision D18. -/
def Obligations.StepKeepsTheReceiverConsistent : Prop :=
  ∀ s t : State, s.ReceiverOk → step s = .next t → t.ReceiverOk

/-- R66: GRAM's canonical form is kept by every step (the form is the model's, log entry 11). Rests on log entry 11.
-/
def Obligations.StepKeepsGramCanonical : Prop :=
  ∀ s t : State, s.gramOk → step s = .next t → t.gramOk

/-- R34, R84: `FT` and the receiver's fields are what the receiver rule makes of `LT`; every step keeps it so. Rests
on decisions D1, D18; log entries 5, 6. -/
def Obligations.FrameTraceIsReadFromTheLineTrace : Prop :=
  ∀ s t : State, s.receivedFromTrace → step s = .next t → t.receivedFromTrace

/-- The invariants hold at reset. Rests on decision D7; log entries 5, 6, 11. -/
def Obligations.InvariantsHoldAtReset : Prop :=
  State.reset.sequenced ∧ State.reset.TrackerOk ∧ State.reset.ReceiverOk ∧ State.reset.gramOk ∧
    State.reset.receivedFromTrace

/-- R61, R104, R201: an operation once accepted performs its whole expansion in order and ends idle, provided the
delay provider's reports come; `initialize` is the only one that waits for any. Rests on decisions D3, D21; log
entries 3, 4. -/
def Obligations.AcceptedOperationRunsItsWholeExpansion : Prop :=
  ∀ (s : State) (op : Operation), s.cur = some op → s.pc = 0 → (op = .initDisplay → enoughReports s.delays) →
    ∃ t, runSteps (s.expansion op).length s = .next t ∧ t.cur = none ∧ t.pc = 0 ∧ t.lt = s.lt ++ s.expansion op

/-- R130, R131, R157: a window-set accepted in the legal order sends its eleven frames and leaves the window
retained and its stream open. Rests on decisions D3, D13, D18. -/
def Obligations.SetAddressWindowOpensItsWindow : Prop :=
  ∀ s : State, s.cur = some .setAddressWindow → s.pc = 0 → s.lines.cs ≠ some false →
    s.phase = .awakeIdle ∨ s.phase = .writing → s.need = 0 → s.half = none → s.fmt16 = true →
    ∃ t, runSteps 297 s = .next t ∧ t.cur = none ∧
      t.lt = s.lt ++ setAddressWindowOps s.latchA s.latchB s.latchC s.latchD ∧
      t.ft = s.ft ++ [⟨false, 0x2A⟩, ⟨true, hi8 s.latchA⟩, ⟨true, lo8 s.latchA⟩, ⟨true, hi8 s.latchB⟩,
        ⟨true, lo8 s.latchB⟩, ⟨false, 0x2B⟩, ⟨true, hi8 s.latchC⟩, ⟨true, lo8 s.latchC⟩, ⟨true, hi8 s.latchD⟩,
        ⟨true, lo8 s.latchD⟩, ⟨false, 0x2C⟩] ∧
      t.phase = .writing ∧ t.win = some ⟨s.latchA, s.latchB, s.latchC, s.latchD⟩ ∧ t.npix = 0 ∧ t.half = none ∧
      t.need = 0 ∧ t.viol = s.viol ∧ t.gram = s.gram ∧
      t.lines = { s.lines with cs := some true, rs := some false, data := some false, clk := some true }

/-- R132, R157: a pixel drawn in the legal order sends its thirteen frames, the y pair with column-address-set, and
completes one pixel in its own window. Rests on decisions D3, D4, D13, D16, D18; log entries 11, 12. -/
def Obligations.DrawPixelWritesOnePixel : Prop :=
  ∀ s : State, s.cur = some .drawPixel → s.pc = 0 → s.lines.cs ≠ some false →
    s.phase = .awakeIdle ∨ s.phase = .writing → s.need = 0 → s.half = none → s.fmt16 = true →
    let x := s.latchA
    let y := s.latchB
    let c := s.latchC
    let w : Window := ⟨y, inc16 y, x, inc16 x⟩
    ∃ t, runSteps 351 s = .next t ∧ t.cur = none ∧ t.lt = s.lt ++ drawPixelOps x y c ∧
      t.ft = s.ft ++ [⟨false, 0x2A⟩, ⟨true, hi8 y⟩, ⟨true, lo8 y⟩, ⟨true, hi8 (inc16 y)⟩, ⟨true, lo8 (inc16 y)⟩,
        ⟨false, 0x2B⟩, ⟨true, hi8 x⟩, ⟨true, lo8 x⟩, ⟨true, hi8 (inc16 x)⟩, ⟨true, lo8 (inc16 x)⟩, ⟨false, 0x2C⟩,
        ⟨true, hi8 c⟩, ⟨true, lo8 c⟩] ∧
      t.phase = .writing ∧ t.win = some w ∧ t.npix = 1 ∧ t.half = none ∧ t.need = 0 ∧ t.viol = s.viol ∧
      t.gramCalls = s.gramCalls ++ [⟨s.mac, some w, 0, c⟩] ∧
      t.gram = Memory.writeAll s.gram (Config.gramStore s.mac (some w) 0 c)

/-- R120, R127, R128, R157: `initialize` with the delay provider's reports coming: its frames, every line as R127
and R128 say, and the controller awake, configured and idle with no violation added. Rests on decisions D3, D8 to
D11, D13, D18; log entries 3, 4, 9, 10. -/
def Obligations.InitializeWakesTheController : Prop :=
  ∀ s : State, s.cur = some .initDisplay → s.pc = 0 → s.lines.cs ≠ some false → s.lines.rst ≠ some false →
    enoughReports s.delays →
    ∃ t, runSteps (initDisplayOps build).length s = .next t ∧ t.cur = none ∧
      t.lt = s.lt ++ initDisplayOps build ∧
      t.ft = s.ft ++ [⟨false, 0xC5⟩, ⟨true, build.vcomH⟩, ⟨true, build.vcomL⟩, ⟨false, 0x36⟩, ⟨true, build.madctl⟩,
        ⟨false, 0x3A⟩, ⟨true, 0x55⟩, ⟨false, 0x11⟩, ⟨false, 0x29⟩] ++
        (if build.eagerRamwr then [⟨false, 0x2C⟩] else []) ∧
      t.phase = .awakeIdle ∧ t.fmt16 = true ∧ t.slpout = true ∧ t.mac = some build.madctl ∧ t.win = none ∧
      t.need = 0 ∧ t.half = none ∧ t.viol = s.viol ∧
      t.lines = ⟨some true, some true, some false, some (!build.eagerRamwr), some true, some true⟩
end

