-- ==== Sys2Proof/Laws/Memory.lean ====
section
/-! SUPPORT. GRAM as a list: a read after a write, and that every operation keeps the canonical form. -/

namespace Sys2Proof.Machine

theorem Memory.read_write_same (m : Memory) (a : Nat) (v : Half) : Memory.read (Memory.write m a v) a = some v := by
  induction m with
  | nil => simp [Memory.write, Memory.read]
  | cons c rest ih =>
    simp only [Memory.write]
    split
    · simp [Memory.read]
    · split
      · simp [Memory.read]
      · have : c.1 ≠ a := by omega
        simp [Memory.read, this, ih]

theorem Memory.read_write_other (m : Memory) {a b : Nat} (v : Half) (h : b ≠ a) :
    Memory.read (Memory.write m a v) b = Memory.read m b := by
  induction m with
  | nil => simp [Memory.write, Memory.read, h.symm]
  | cons c rest ih =>
    simp only [Memory.write]
    split
    · simp [Memory.read, h.symm]
    · split
      · rename_i hac
        have : c.1 ≠ b := by omega
        simp [Memory.read, h.symm, this]
      · simp [Memory.read, ih]

theorem Memory.write_mem {m : Memory} {a : Nat} {v : Half} {c : GramCell} (h : c ∈ Memory.write m a v) :
    c = (a, v) ∨ c ∈ m := by
  induction m with
  | nil => simpa [Memory.write] using h
  | cons d rest ih =>
    simp only [Memory.write] at h
    split at h
    · simpa using h
    · split at h
      · rcases List.mem_cons.1 h with h | h
        · exact .inl h
        · exact .inr (List.mem_cons_of_mem _ h)
      · rcases List.mem_cons.1 h with h | h
        · exact .inr (h ▸ List.mem_cons_self)
        · exact (ih h).imp_right (List.mem_cons_of_mem _)

theorem Memory.write_wf {m : Memory} (a : Nat) (v : Half) (h : Memory.wf m) : Memory.wf (Memory.write m a v) := by
  induction m with
  | nil => simp [Memory.write]
  | cons c rest ih =>
    have hc := List.pairwise_cons.1 h
    simp only [Memory.write]
    split
    · rename_i hlt
      refine List.pairwise_cons.2 ⟨fun d hd => ?_, h⟩
      rcases List.mem_cons.1 hd with rfl | hd
      · exact hlt
      · exact lt_trans hlt (hc.1 d hd)
    · split
      · rename_i hac
        exact List.pairwise_cons.2 ⟨fun d hd => hac ▸ hc.1 d hd, hc.2⟩
      · refine List.pairwise_cons.2 ⟨fun d hd => ?_, ih hc.2⟩
        rcases Memory.write_mem hd with rfl | hd
        · show c.1 < a
          omega
        · exact hc.1 d hd

theorem Memory.writeAll_wf (ws : List GramWrite) : ∀ {m : Memory}, Memory.wf m → Memory.wf (Memory.writeAll m ws) := by
  induction ws with
  | nil => intro m h; exact h
  | cons w ws ih => intro m h; exact ih (Memory.write_wf _ _ h)

theorem Memory.read_writeAll_other (ws : List GramWrite) (a : Nat) (h : ∀ w ∈ ws, gramAddress w.ca w.pa ≠ a) :
    ∀ m : Memory, Memory.read (Memory.writeAll m ws) a = Memory.read m a := by
  induction ws with
  | nil => intro m; rfl
  | cons w ws ih =>
    intro m
    have hw := h w List.mem_cons_self
    exact (ih (fun x hx => h x (List.mem_cons_of_mem _ hx)) _).trans
      (Memory.read_write_other m w.value hw.symm)

theorem storePixel_gram_wf (c : Half) {s : State} (h : Memory.wf s.gram) : Memory.wf (storePixel c s).gram :=
  Memory.writeAll_wf _ h

theorem freeGram_gram_wf (s : State) : Memory.wf (freeGram s).gram := Memory.writeAll_wf _ List.Pairwise.nil

theorem reset_gram_wf : Memory.wf State.reset.gram := List.Pairwise.nil

end Sys2Proof.Machine
end

