-- ==== Sys2Proof/Laws/State.lean ====
section
/-! SUPPORT. The small lemmas of the state's updates: registers after a line write, membership after a flag, and one
lemma per field of each named update that is a plain record update. -/

namespace Sys2Proof.Machine

@[simp] theorem Lines.get_put_same (l : Lines) (n : Line) (v : Level) : (l.put n v).get n = some v := by
  cases n <;> rfl

theorem Lines.get_put_other (l : Lines) {n m : Line} (v : Level) (h : m ≠ n) : (l.put n v).get m = l.get m := by
  cases n <;> cases m <;> first | rfl | exact absurd rfl h

@[simp] theorem ViolSet.has_add_same (v : ViolSet) (c : Violation) : (v.add c).has c = true := by
  cases c <;> rfl

theorem ViolSet.has_add_other (v : ViolSet) {c d : Violation} (h : d ≠ c) : (v.add c).has d = v.has d := by
  cases c <;> cases d <;> first | rfl | exact absurd rfl h

theorem ViolSet.has_add_of_has (v : ViolSet) (c : Violation) {d : Violation} (h : v.has d = true) :
    (v.add c).has d = true := by
  by_cases e : d = c
  · subst e; exact ViolSet.has_add_same v d
  · rw [ViolSet.has_add_other v e]; exact h

theorem ViolSet.has_empty (c : Violation) : ViolSet.empty.has c = false := by cases c <;> rfl


/-! `flag V_x` -/

@[simp] theorem State.flag_lines (c : Violation) (s : State) : (s.flag c).lines = s.lines := rfl
@[simp] theorem State.flag_cur (c : Violation) (s : State) : (s.flag c).cur = s.cur := rfl
@[simp] theorem State.flag_pc (c : Violation) (s : State) : (s.flag c).pc = s.pc := rfl
@[simp] theorem State.flag_latchA (c : Violation) (s : State) : (s.flag c).latchA = s.latchA := rfl
@[simp] theorem State.flag_latchB (c : Violation) (s : State) : (s.flag c).latchB = s.latchB := rfl
@[simp] theorem State.flag_latchC (c : Violation) (s : State) : (s.flag c).latchC = s.latchC := rfl
@[simp] theorem State.flag_latchD (c : Violation) (s : State) : (s.flag c).latchD = s.latchD := rfl
@[simp] theorem State.flag_inited (c : Violation) (s : State) : (s.flag c).inited = s.inited := rfl
@[simp] theorem State.flag_phase (c : Violation) (s : State) : (s.flag c).phase = s.phase := rfl
@[simp] theorem State.flag_win (c : Violation) (s : State) : (s.flag c).win = s.win := rfl
@[simp] theorem State.flag_cmd (c : Violation) (s : State) : (s.flag c).cmd = s.cmd := rfl
@[simp] theorem State.flag_need (c : Violation) (s : State) : (s.flag c).need = s.need := rfl
@[simp] theorem State.flag_acc (c : Violation) (s : State) : (s.flag c).acc = s.acc := rfl
@[simp] theorem State.flag_caDone (c : Violation) (s : State) : (s.flag c).caDone = s.caDone := rfl
@[simp] theorem State.flag_slpout (c : Violation) (s : State) : (s.flag c).slpout = s.slpout := rfl
@[simp] theorem State.flag_fmt16 (c : Violation) (s : State) : (s.flag c).fmt16 = s.fmt16 := rfl
@[simp] theorem State.flag_half (c : Violation) (s : State) : (s.flag c).half = s.half := rfl
@[simp] theorem State.flag_npix (c : Violation) (s : State) : (s.flag c).npix = s.npix := rfl
@[simp] theorem State.flag_mac (c : Violation) (s : State) : (s.flag c).mac = s.mac := rfl
@[simp] theorem State.flag_rxOpen (c : Violation) (s : State) : (s.flag c).rxOpen = s.rxOpen := rfl
@[simp] theorem State.flag_rxRs (c : Violation) (s : State) : (s.flag c).rxRs = s.rxRs := rfl
@[simp] theorem State.flag_rxBits (c : Violation) (s : State) : (s.flag c).rxBits = s.rxBits := rfl
@[simp] theorem State.flag_rxBad (c : Violation) (s : State) : (s.flag c).rxBad = s.rxBad := rfl
@[simp] theorem State.flag_viol (c : Violation) (s : State) : (s.flag c).viol = s.viol.add c := rfl
@[simp] theorem State.flag_refused (c : Violation) (s : State) : (s.flag c).refused = s.refused := rfl
@[simp] theorem State.flag_lt (c : Violation) (s : State) : (s.flag c).lt = s.lt := rfl
@[simp] theorem State.flag_ft (c : Violation) (s : State) : (s.flag c).ft = s.ft := rfl
@[simp] theorem State.flag_gram (c : Violation) (s : State) : (s.flag c).gram = s.gram := rfl
@[simp] theorem State.flag_gramCalls (c : Violation) (s : State) : (s.flag c).gramCalls = s.gramCalls := rfl
@[simp] theorem State.flag_requests (c : Violation) (s : State) : (s.flag c).requests = s.requests := rfl
@[simp] theorem State.flag_delays (c : Violation) (s : State) : (s.flag c).delays = s.delays := rfl
@[simp] theorem State.flag_draws (c : Violation) (s : State) : (s.flag c).draws = s.draws := rfl
@[simp] theorem State.flag_resets (c : Violation) (s : State) : (s.flag c).resets = s.resets := rfl

/-! a command that is owed bytes -/

@[simp] theorem owe_lines (o : Byte) (n : Nat) (s : State) : (owe o n s).lines = s.lines := rfl
@[simp] theorem owe_cur (o : Byte) (n : Nat) (s : State) : (owe o n s).cur = s.cur := rfl
@[simp] theorem owe_pc (o : Byte) (n : Nat) (s : State) : (owe o n s).pc = s.pc := rfl
@[simp] theorem owe_latchA (o : Byte) (n : Nat) (s : State) : (owe o n s).latchA = s.latchA := rfl
@[simp] theorem owe_latchB (o : Byte) (n : Nat) (s : State) : (owe o n s).latchB = s.latchB := rfl
@[simp] theorem owe_latchC (o : Byte) (n : Nat) (s : State) : (owe o n s).latchC = s.latchC := rfl
@[simp] theorem owe_latchD (o : Byte) (n : Nat) (s : State) : (owe o n s).latchD = s.latchD := rfl
@[simp] theorem owe_inited (o : Byte) (n : Nat) (s : State) : (owe o n s).inited = s.inited := rfl
@[simp] theorem owe_phase (o : Byte) (n : Nat) (s : State) : (owe o n s).phase = s.phase := rfl
@[simp] theorem owe_win (o : Byte) (n : Nat) (s : State) : (owe o n s).win = s.win := rfl
@[simp] theorem owe_cmd (o : Byte) (n : Nat) (s : State) : (owe o n s).cmd = some o := rfl
@[simp] theorem owe_need (o : Byte) (n : Nat) (s : State) : (owe o n s).need = n := rfl
@[simp] theorem owe_acc (o : Byte) (n : Nat) (s : State) : (owe o n s).acc = [] := rfl
@[simp] theorem owe_caDone (o : Byte) (n : Nat) (s : State) : (owe o n s).caDone = s.caDone := rfl
@[simp] theorem owe_slpout (o : Byte) (n : Nat) (s : State) : (owe o n s).slpout = s.slpout := rfl
@[simp] theorem owe_fmt16 (o : Byte) (n : Nat) (s : State) : (owe o n s).fmt16 = s.fmt16 := rfl
@[simp] theorem owe_half (o : Byte) (n : Nat) (s : State) : (owe o n s).half = s.half := rfl
@[simp] theorem owe_npix (o : Byte) (n : Nat) (s : State) : (owe o n s).npix = s.npix := rfl
@[simp] theorem owe_mac (o : Byte) (n : Nat) (s : State) : (owe o n s).mac = s.mac := rfl
@[simp] theorem owe_rxOpen (o : Byte) (n : Nat) (s : State) : (owe o n s).rxOpen = s.rxOpen := rfl
@[simp] theorem owe_rxRs (o : Byte) (n : Nat) (s : State) : (owe o n s).rxRs = s.rxRs := rfl
@[simp] theorem owe_rxBits (o : Byte) (n : Nat) (s : State) : (owe o n s).rxBits = s.rxBits := rfl
@[simp] theorem owe_rxBad (o : Byte) (n : Nat) (s : State) : (owe o n s).rxBad = s.rxBad := rfl
@[simp] theorem owe_viol (o : Byte) (n : Nat) (s : State) : (owe o n s).viol = s.viol := rfl
@[simp] theorem owe_refused (o : Byte) (n : Nat) (s : State) : (owe o n s).refused = s.refused := rfl
@[simp] theorem owe_lt (o : Byte) (n : Nat) (s : State) : (owe o n s).lt = s.lt := rfl
@[simp] theorem owe_ft (o : Byte) (n : Nat) (s : State) : (owe o n s).ft = s.ft := rfl
@[simp] theorem owe_gram (o : Byte) (n : Nat) (s : State) : (owe o n s).gram = s.gram := rfl
@[simp] theorem owe_gramCalls (o : Byte) (n : Nat) (s : State) : (owe o n s).gramCalls = s.gramCalls := rfl
@[simp] theorem owe_requests (o : Byte) (n : Nat) (s : State) : (owe o n s).requests = s.requests := rfl
@[simp] theorem owe_delays (o : Byte) (n : Nat) (s : State) : (owe o n s).delays = s.delays := rfl
@[simp] theorem owe_draws (o : Byte) (n : Nat) (s : State) : (owe o n s).draws = s.draws := rfl
@[simp] theorem owe_resets (o : Byte) (n : Nat) (s : State) : (owe o n s).resets = s.resets := rfl

/-! a command that is owed none -/

@[simp] theorem oweNothing_lines  (s : State) : (oweNothing s).lines = s.lines := rfl
@[simp] theorem oweNothing_cur  (s : State) : (oweNothing s).cur = s.cur := rfl
@[simp] theorem oweNothing_pc  (s : State) : (oweNothing s).pc = s.pc := rfl
@[simp] theorem oweNothing_latchA  (s : State) : (oweNothing s).latchA = s.latchA := rfl
@[simp] theorem oweNothing_latchB  (s : State) : (oweNothing s).latchB = s.latchB := rfl
@[simp] theorem oweNothing_latchC  (s : State) : (oweNothing s).latchC = s.latchC := rfl
@[simp] theorem oweNothing_latchD  (s : State) : (oweNothing s).latchD = s.latchD := rfl
@[simp] theorem oweNothing_inited  (s : State) : (oweNothing s).inited = s.inited := rfl
@[simp] theorem oweNothing_phase  (s : State) : (oweNothing s).phase = s.phase := rfl
@[simp] theorem oweNothing_win  (s : State) : (oweNothing s).win = s.win := rfl
@[simp] theorem oweNothing_cmd  (s : State) : (oweNothing s).cmd = none := rfl
@[simp] theorem oweNothing_need  (s : State) : (oweNothing s).need = 0 := rfl
@[simp] theorem oweNothing_acc  (s : State) : (oweNothing s).acc = s.acc := rfl
@[simp] theorem oweNothing_caDone  (s : State) : (oweNothing s).caDone = s.caDone := rfl
@[simp] theorem oweNothing_slpout  (s : State) : (oweNothing s).slpout = s.slpout := rfl
@[simp] theorem oweNothing_fmt16  (s : State) : (oweNothing s).fmt16 = s.fmt16 := rfl
@[simp] theorem oweNothing_half  (s : State) : (oweNothing s).half = s.half := rfl
@[simp] theorem oweNothing_npix  (s : State) : (oweNothing s).npix = s.npix := rfl
@[simp] theorem oweNothing_mac  (s : State) : (oweNothing s).mac = s.mac := rfl
@[simp] theorem oweNothing_rxOpen  (s : State) : (oweNothing s).rxOpen = s.rxOpen := rfl
@[simp] theorem oweNothing_rxRs  (s : State) : (oweNothing s).rxRs = s.rxRs := rfl
@[simp] theorem oweNothing_rxBits  (s : State) : (oweNothing s).rxBits = s.rxBits := rfl
@[simp] theorem oweNothing_rxBad  (s : State) : (oweNothing s).rxBad = s.rxBad := rfl
@[simp] theorem oweNothing_viol  (s : State) : (oweNothing s).viol = s.viol := rfl
@[simp] theorem oweNothing_refused  (s : State) : (oweNothing s).refused = s.refused := rfl
@[simp] theorem oweNothing_lt  (s : State) : (oweNothing s).lt = s.lt := rfl
@[simp] theorem oweNothing_ft  (s : State) : (oweNothing s).ft = s.ft := rfl
@[simp] theorem oweNothing_gram  (s : State) : (oweNothing s).gram = s.gram := rfl
@[simp] theorem oweNothing_gramCalls  (s : State) : (oweNothing s).gramCalls = s.gramCalls := rfl
@[simp] theorem oweNothing_requests  (s : State) : (oweNothing s).requests = s.requests := rfl
@[simp] theorem oweNothing_delays  (s : State) : (oweNothing s).delays = s.delays := rfl
@[simp] theorem oweNothing_draws  (s : State) : (oweNothing s).draws = s.draws := rfl
@[simp] theorem oweNothing_resets  (s : State) : (oweNothing s).resets = s.resets := rfl

end Sys2Proof.Machine
end

