-- ==== Sys2Proof/Laws/Words.lean ====
section
/-! SUPPORT. Bytes, 16-bit values and the lists of micro-operations: what goes in comes out, and how long the lists
are. -/

namespace Sys2Proof.Machine

/-- The receiver reads back the byte whose bits were sent most significant first (R51, R84). -/
theorem byteOf_msbFirst : ∀ b : Byte, byteOf (msbFirst b) = b := by decide

@[simp] theorem msbFirst_length (b : Byte) : (msbFirst b).length = 8 := rfl

/-- The two bytes of a 16-bit value put together again (R52, R148). -/
theorem pair_hi8_lo8 (v : Half) : pair (hi8 v) (lo8 v) = v := by
  unfold pair hi8 lo8
  apply BitVec.eq_of_toNat_eq
  have h := v.isLt
  simp only [BitVec.toNat_append, BitVec.extractLsb'_toNat, Nat.shiftRight_eq_div_pow]
  rw [← Nat.shiftLeft_add_eq_or_of_lt (by omega), Nat.shiftLeft_eq]
  omega

theorem hi8_pair (h l : Byte) : hi8 (pair h l) = h := by
  unfold pair hi8
  exact BitVec.extractLsb'_append_eq_left

theorem lo8_pair (h l : Byte) : lo8 (pair h l) = l := by
  unfold pair lo8
  exact BitVec.extractLsb'_append_eq_right

/-- A byte operand in a 16-bit latch is read back from `A[7:0]` (R79, R100). -/
theorem lo8_setWidth (b : Byte) : lo8 (b.setWidth 16) = b := by
  unfold lo8
  apply BitVec.eq_of_toNat_eq
  simpa [BitVec.extractLsb'_toNat] using b.isLt

@[simp] theorem byteBody_length (b : Byte) : (byteBody b).length = 24 := rfl

@[simp] theorem frameOps_length (f : Frame) : (frameOps f).length = 27 := rfl

@[simp] theorem commandOps_length (o : Byte) : (commandOps o).length = 27 := rfl

@[simp] theorem dataOps_length (b : Byte) : (dataOps b).length = 27 := rfl

@[simp] theorem halfOps_length (v : Half) : (halfOps v).length = 54 := rfl

theorem setAddressWindowOps_length (rs re cs ce : Half) : (setAddressWindowOps rs re cs ce).length = 297 := by
  simp [setAddressWindowOps]

theorem drawPixelOps_length (x y c : Half) : (drawPixelOps x y c).length = 351 := by
  simp [drawPixelOps, setAddressWindowOps_length]

/-- Every code picks a permutation of the lines it is given (R15). -/
theorem pickOrder_perm (code : List Nat) : ∀ left : List Line, (pickOrder code left).Perm left := by
  induction code with
  | nil => intro left; exact List.Perm.refl _
  | cons k code ih =>
    intro left
    unfold pickOrder
    split
    · exact List.Perm.refl _
    · rename_i n hn
      exact ((ih (left.erase n)).cons n).trans (List.perm_cons_erase (List.mem_of_getElem? hn)).symm

/-- Every permutation of the lines has a code, so that the open code leaves the order as open as R15 does. -/
theorem pickOrder_reaches {order left : List Line} (h : order.Perm left) : ∃ code, pickOrder code left = order := by
  induction order generalizing left with
  | nil => exact ⟨[], by rw [h.nil_eq.symm]; rfl⟩
  | cons n order ih =>
    have hm : n ∈ left := h.subset List.mem_cons_self
    obtain ⟨k, hk, hkn⟩ := List.getElem_of_mem hm
    obtain ⟨code, hcode⟩ := ih ((List.perm_cons_erase hm).symm.trans h.symm).cons_inv.symm
    refine ⟨k :: code, ?_⟩
    have hmod : left[k % left.length]? = some n := by
      rw [Nat.mod_eq_of_lt hk, List.getElem?_eq_getElem hk, hkn]
    simp only [pickOrder, hmod, hcode]

theorem initDisplayOps_length (p : Config.Params) :
    (initDisplayOps p).length = p.lineOrder.length + 251 + (if p.eagerRamwr then 27 else 0) := by
  unfold initDisplayOps initIdleLevels initResetPulse initVcom initMemoryAccess initPixelFormat initSleepOut
    initDisplayOn initEager
  split <;> simp

/-- No expansion is empty, so an accepted operation has a first micro-operation (R25). -/
theorem expansion_pos (p : Config.Params) (op : Operation) (a b c d : Half) :
    0 < (expansion p op a b c d).length := by
  cases op <;> simp [expansion, writeByteOps, writeCommandOps, writeDataOps, setAddressWindowOps_length,
    drawPixelOps_length, initDisplayOps_length]

end Sys2Proof.Machine
end

