-- ==== Sys2Proof/Laws/Ops.lean ====
section
/-! SUPPORT. One lemma for each shared operation that says everything it can do; callers cite it instead of unfolding
the operation. -/

namespace Sys2Proof.Machine

/-! The violation set -/

theorem ViolSet.subset_refl (v : ViolSet) : v.subset v := fun _ h => h

theorem ViolSet.subset_trans {u v w : ViolSet} (h : u.subset v) (k : v.subset w) : u.subset w :=
  fun c hc => k c (h c hc)

theorem ViolSet.subset_add (v : ViolSet) (c : Violation) : v.subset (v.add c) :=
  fun _ h => ViolSet.has_add_of_has v c h

/-- `flag V_x` twice is `flag V_x` once: the codes are a set (R33, R172). -/
theorem ViolSet.add_add (v : ViolSet) (c : Violation) : (v.add c).add c = v.add c := by cases c <;> rfl

theorem State.flagIf_eq (s : State) (p : Bool) (c : Violation) :
    s.flagIf p c = { s with viol := if p then s.viol.add c else s.viol } := by
  unfold State.flagIf
  split <;> rfl

/-! Reads of a line -/

theorem readLevel_driven (v : Level) (s : State) : readLevel (some v) s = (v, s) := rfl

theorem readLevel_state (l : Option Level) (s : State) : ∃ d, (readLevel l s).2 = { s with draws := d } := by
  cases l
  · exact ⟨s.draws + 1, rfl⟩
  · exact ⟨s.draws, rfl⟩

/-! Acceptance and refusal -/

theorem accept_busy (op : Operation) (a b c d : Half) {s : State} (h : s.cur ≠ none) : accept op a b c d s = s := by
  unfold accept
  rw [if_pos]
  exact Option.isSome_iff_ne_none.2 h

theorem accept_idle (op : Operation) (a b c d : Half) {s : State} (h : s.cur = none) :
    accept op a b c d s =
      operationChecks op { s with cur := some op, pc := 0, latchA := a, latchB := b, latchC := c, latchD := d } := by
  simp [accept, State.busy, h]

/-- What the operation-level checks can do (R176). -/
theorem operationChecks_eq (op : Operation) (s : State) :
    ∃ v i, operationChecks op s = { s with viol := v, inited := i } ∧ s.viol.subset v ∧
      (s.inited = true → i = true) := by
  unfold operationChecks
  split
  · refine ⟨if s.inited then s.viol.add .reinit else s.viol, true, ?_, ?_, fun _ => rfl⟩
    · rw [State.flagIf_eq]
    · split
      · exact ViolSet.subset_add _ _
      · exact ViolSet.subset_refl _
  · refine ⟨if !s.inited then s.viol.add .uninit else s.viol, s.inited, ?_, ?_, id⟩
    · rw [State.flagIf_eq]
    · split
      · exact ViolSet.subset_add _ _
      · exact ViolSet.subset_refl _

/-- What accepting a request can do: hold it, or load the sequencer and make the checks (R27). -/
theorem accept_cases (op : Operation) (a b c d : Half) (s : State) :
    (s.cur ≠ none ∧ accept op a b c d s = s) ∨
    (s.cur = none ∧ ∃ v i, s.viol.subset v ∧ (s.inited = true → i = true) ∧ accept op a b c d s =
      { s with cur := some op, pc := 0, latchA := a, latchB := b, latchC := c, latchD := d, viol := v, inited := i }) := by
  by_cases h : s.cur = none
  · obtain ⟨v, i, e, hv, hi⟩ := operationChecks_eq op
      { s with cur := some op, pc := 0, latchA := a, latchB := b, latchC := c, latchD := d }
    exact .inr ⟨h, v, i, hv, hi, (accept_idle op a b c d h).trans e⟩
  · exact .inl ⟨h, accept_busy op a b c d h⟩

/-- What refusing a request can do (R177). -/
theorem refuse_cases (s : State) : refuse s = s ∨ (s.cur = none ∧ refuse s = { s with refused := true }) := by
  by_cases h : s.cur = none
  · exact .inr ⟨h, by simp [refuse, State.busy, h]⟩
  · refine .inl ?_
    unfold refuse
    rw [if_pos]
    exact Option.isSome_iff_ne_none.2 h

/-! The receiver -/

/-- What a sample can do (R84): it adds one bit and has a mode afterwards; flags only `V_FRAME`. -/
theorem sample_eq (s : State) :
    ∃ r b x v d, sample s =
        { s with rxRs := some r, rxBits := s.rxBits ++ [b], rxBad := x, viol := v, draws := d } ∧
      s.viol.subset v := by
  have hc : ∃ x v, checkDriven s = { s with rxBad := x, viol := v } ∧ s.viol.subset v := by
    unfold checkDriven
    split
    · exact ⟨true, s.viol.add .frame, rfl, ViolSet.subset_add _ _⟩
    · exact ⟨s.rxBad, s.viol, rfl, ViolSet.subset_refl _⟩
  obtain ⟨x, v, hc, hv⟩ := hc
  have hm : ∃ r x' v' d, sampleMode { s with rxBad := x, viol := v } =
      { s with rxRs := some r, rxBad := x', viol := v', draws := d } ∧ v.subset v' := by
    unfold sampleMode
    split
    · obtain ⟨d, hd⟩ := readLevel_state s.lines.rs { s with rxBad := x, viol := v }
      exact ⟨_, x, v, d, by rw [hd], ViolSet.subset_refl _⟩
    · rename_i hn
      obtain ⟨r, hr⟩ := Option.ne_none_iff_exists'.1 hn
      have hr : s.rxRs = some r := hr
      split
      · refine ⟨r, true, v.add .frame, s.draws, ?_, ViolSet.subset_add _ _⟩
        simp only [badFrame, State.flag, ← hr]
      · exact ⟨r, x, v, s.draws, by simp only [← hr], ViolSet.subset_refl _⟩
  obtain ⟨r, x', v', d, hm, hv'⟩ := hm
  obtain ⟨d', hd'⟩ := readLevel_state s.lines.data { s with rxRs := some r, rxBad := x', viol := v', draws := d }
  refine ⟨r, (readLevel s.lines.data { s with rxRs := some r, rxBad := x', viol := v', draws := d }).1, x', v', d', ?_,
    ViolSet.subset_trans hv hv'⟩
  simp only [sample, hc, hm, sampleData, hd']

/-- What closing a frame can do (R84): append the frame, or nothing; flag only `V_FRAME`. -/
theorem closeFrame_cases (s : State) :
    (∃ f d, closeFrame s = ({ s with ft := s.ft ++ [f], rxOpen := false, draws := d }, some f) ∧
      f.byte = byteOf s.rxBits ∧ s.rxBits.length = 8 ∧ s.rxBad = false) ∨
    (∃ v, closeFrame s = ({ s with viol := v, rxOpen := false }, none) ∧ s.viol.subset v) := by
  unfold closeFrame
  split
  · rename_i h
    obtain ⟨d, hd⟩ := readLevel_state s.rxRs s
    exact .inl ⟨⟨(readLevel s.rxRs s).1, byteOf s.rxBits⟩, d, by simp only [hd], rfl, h.1, h.2⟩
  · refine .inr ⟨if s.rxBits.length != 0 then s.viol.add .frame else s.viol, ?_, ?_⟩
    · rw [State.flagIf_eq]
    · split
      · exact ViolSet.subset_add _ _
      · exact ViolSet.subset_refl _

/-- What the receiver can do at a line write (R84): it touches its own four fields, `viol`, `FT` and the draw counter
and nothing else, and `FT` grows by exactly the frame it answers. -/
theorem receive_frame (n : Line) (v : Level) (s : State) :
    ∃ o r b x w fs d, (receive n v s).1 =
        { s with rxOpen := o, rxRs := r, rxBits := b, rxBad := x, viol := w, ft := fs, draws := d } ∧
      s.viol.subset w ∧ fs = s.ft ++ (receive n v s).2.toList := by
  have same : ∃ o r b x w fs d, s =
        { s with rxOpen := o, rxRs := r, rxBits := b, rxBad := x, viol := w, ft := fs, draws := d } ∧
      s.viol.subset w ∧ fs = s.ft ++ (none : Option Frame).toList :=
    ⟨s.rxOpen, s.rxRs, s.rxBits, s.rxBad, s.viol, s.ft, s.draws, rfl, ViolSet.subset_refl _, by simp⟩
  unfold receive
  split
  · split
    · exact ⟨true, none, [], false, s.viol, s.ft, s.draws, rfl, ViolSet.subset_refl _, by simp⟩
    · exact same
  · split
    · obtain ⟨r, b, x, w, d, h, hw⟩ := sample_eq s
      exact ⟨s.rxOpen, some r, s.rxBits ++ [b], x, w, s.ft, d, h, hw, by simp⟩
    · exact same
  · split
    · rcases closeFrame_cases s with ⟨f, d, h, -⟩ | ⟨w, h, hw⟩
      · exact ⟨false, s.rxRs, s.rxBits, s.rxBad, s.viol, s.ft ++ [f], d, by rw [h], ViolSet.subset_refl _, by rw [h]; rfl⟩
      · exact ⟨false, s.rxRs, s.rxBits, s.rxBad, w, s.ft, s.draws, by rw [h], hw, by rw [h]; simp⟩
    · exact same
  all_goals exact same

/-! The tracker -/

/-- What the tracker can do at a line write (R141): nothing, clear itself, wake to `Sleeping`, or flag. -/
theorem trackReset_cases (n : Line) (v : Level) (s : State) :
    (trackReset n v s = s ∧ (n = .rst → v = false → s.lines.rst = some false) ∧
      (n = .rst → v = true → s.lines.rst ≠ some false)) ∨
    (n = .rst ∧ v = false ∧ s.lines.rst ≠ some false ∧ trackReset n v s = resetFall s) ∨
    (n = .rst ∧ v = true ∧ s.lines.rst = some false ∧ s.phase = .uninit ∧
      trackReset n v s = { s with phase := .sleeping }) ∨
    (n = .rst ∧ v = true ∧ s.lines.rst = some false ∧ s.phase ≠ .uninit ∧
      trackReset n v s = s.flag .unlisted) := by
  cases n <;> cases v <;> simp only [trackReset]
  case rst.false =>
    by_cases h : s.lines.rst = some false
    · simp [h]
    · simp [h]
  case rst.true =>
    by_cases h : s.lines.rst = some false
    · by_cases hp : s.phase = .uninit
      · simp [h, hp, resetRise]
      · simp [h, hp, resetRise]
    · simp [h]
  all_goals simp

/-- The record that the common part leaves (R142), each field by its line of the rule. -/
theorem commandCommon_phase (o : Byte) (s : State) :
    (commandCommon o s).phase =
      if s.phase = .writing ∨ s.phase = .windowed ∧ o ≠ 0x2C then .awakeIdle else s.phase := by
  unfold commandCommon endColumns endWindow endHalfPixel endParameters
  cases hp : s.phase <;> by_cases ho : o = 0x2C <;> by_cases hb : o = 0x2B <;> by_cases hn : s.need > 0 <;>
    by_cases hh : s.half = none <;> simp_all [State.flag]

/-- What a meaning does: every instruction answers a next state (R104, R170). -/
theorem exec_answers (i : Instr) (s : State) : ∃ t, exec i s = .next t := by cases i <;> exact ⟨_, rfl⟩

/-! The step -/

/-- What one step can do: the fetched state, run through the fetched instruction. -/
theorem step_cases {s t : State} (h : step s = .next t) :
    fetch s = some (t, none) ∨ ∃ u i, fetch s = some (u, some i) ∧ exec i u = .next t := by
  unfold step at h
  split at h
  · cases h
  · rename_i u hu
    cases h
    exact .inl hu
  · rename_i u i hu
    exact .inr ⟨u, i, hu, h⟩

/-- What fetching can do: nothing, take a request, refuse one, or perform the micro-operation at `pc`. -/
theorem fetch_cases {s u : State} {i : Option Instr} (h : fetch s = some (u, i)) :
    (s.cur = none ∧ s.requests = [] ∧ u = s ∧ i = none) ∨
    (∃ w rest j, s.cur = none ∧ s.requests = w :: rest ∧ decodeRequest w = .ok j ∧ u = { s with requests := rest } ∧
      i = some j) ∨
    (∃ w rest e, s.cur = none ∧ s.requests = w :: rest ∧ decodeRequest w = .rejected e ∧
      u = refuse { s with requests := rest } ∧ i = none) ∨
    (∃ op m, s.cur = some op ∧ (s.expansion op)[s.pc]? = some m ∧
      performMicroOp (s.expansion op).length m s = (u, i)) := by
  unfold fetch at h
  split at h
  · rename_i hc
    have h := Option.some.inj h
    unfold presentRequest at h
    split at h
    · rename_i hr
      cases h
      exact .inl ⟨hc, hr, rfl, rfl⟩
    · rename_i w rest hr
      split at h
      · rename_i j hj
        cases h
        exact .inr (.inl ⟨w, rest, j, hc, hr, hj, rfl, rfl⟩)
      · rename_i e he
        cases h
        exact .inr (.inr (.inl ⟨w, rest, e, hc, hr, he, rfl, rfl⟩))
  · rename_i op hc
    split at h
    · cases h
    · rename_i m hm
      exact .inr (.inr (.inr ⟨op, m, hc, hm, Option.some.inj h⟩))

/-- What the sequencer's advance can do (R25). -/
theorem advance_eq (len : Nat) (s : State) :
    advance len s =
      { s with cur := if s.pc + 1 = len then none else s.cur, pc := if s.pc + 1 = len then 0 else s.pc + 1 } := by
  unfold advance
  split <;> rfl

/-- What one step in a wait can do (R18): go on, or complete; either way only the sequencer, the line trace and the
reports move. -/
theorem waitStep_cases (len k : Nat) (s : State) :
    (∃ ds, waitStep len k s = { s with delays := ds } ∧ k ≠ 0) ∨
    (∃ ds, waitStep len k s = waitDone len k { s with delays := ds }) := by
  unfold waitStep
  split
  · exact .inr ⟨s.delays, rfl⟩
  · rename_i hk
    split
    · exact .inl ⟨s.delays, rfl, hk⟩
    · rename_i r rest _
      split
      · exact .inr ⟨rest, rfl⟩
      · exact .inl ⟨rest, rfl, hk⟩

end Sys2Proof.Machine
end

