-- ==== Sys2Proof/Laws/PerInstr.lean ====
section
/-! SUPPORT. The per-instruction family `EncodedFormat`: an instruction is encoded in the format its table row has, the
67-bit request or the 9-bit symbol (spec/opcode_table.json, 30_encoding.md R74, R78). -/

namespace Sys2Proof.Laws.EncodedFormat

/-- The instruction's word is a request exactly if its row is one. -/
def Statement (i : Instr) : Prop := (∃ w, encode i = .request w) ↔ i.isRequest = true

theorem of_request {i : Instr} {w : RequestWord} (h : encode i = .request w) (k : i.isRequest = true) :
    Statement i := iff_of_true ⟨w, h⟩ k

theorem of_symbol {i : Instr} {w : SymbolWord} (h : encode i = .symbol w) (k : i.isRequest = false) :
    Statement i :=
  iff_of_false (fun ⟨_, e⟩ => by rw [h] at e; cases e) (by rw [k]; exact Bool.false_ne_true)

theorem writeByte (v : Byte) (b : Half) (c : Half) (d : Half) : Statement (.writeByte v b c d) := of_request rfl rfl
theorem writeCommand (o : Byte) (b : Half) (c : Half) (d : Half) : Statement (.writeCommand o b c d) :=
  of_request rfl rfl
theorem writeData (v : Byte) (b : Half) (c : Half) (d : Half) : Statement (.writeData v b c d) := of_request rfl rfl
theorem initDisplay (a : Half) (b : Half) (c : Half) (d : Half) : Statement (.initDisplay a b c d) :=
  of_request rfl rfl
theorem setAddressWindow (a : Half) (b : Half) (c : Half) (d : Half) : Statement (.setAddressWindow a b c d) :=
  of_request rfl rfl
theorem drawPixel (a : Half) (b : Half) (c : Half) (d : Half) : Statement (.drawPixel a b c d) := of_request rfl rfl
theorem reservedReq (op : BitVec 3) (a : Half) (b : Half) (c : Half) (d : Half) : Statement (.reservedReq op a b c d) :=
  of_request rfl rfl
theorem vcomControl : Statement .vcomControl := of_symbol rfl rfl
theorem memoryAccessControl : Statement .memoryAccessControl := of_symbol rfl rfl
theorem pixelFormatSet : Statement .pixelFormatSet := of_symbol rfl rfl
theorem sleepOut : Statement .sleepOut := of_symbol rfl rfl
theorem displayOn : Statement .displayOn := of_symbol rfl rfl
theorem columnAddressSet : Statement .columnAddressSet := of_symbol rfl rfl
theorem pageAddressSet : Statement .pageAddressSet := of_symbol rfl rfl
theorem memoryWrite : Statement .memoryWrite := of_symbol rfl rfl
theorem dataParameter (b : Byte) : Statement (.dataParameter b) := of_symbol rfl rfl
theorem dataPixel (b : Byte) : Statement (.dataPixel b) := of_symbol rfl rfl
theorem dataStray (b : Byte) : Statement (.dataStray b) := of_symbol rfl rfl
theorem commandUnlisted (o : Byte) : Statement (.commandUnlisted o) := of_symbol rfl rfl

end Sys2Proof.Laws.EncodedFormat
end

