-- ==== Sys2Proof/Laws/Tracker.lean ====
section
/-! SUPPORT. What the tracker's shared operations leave alone: the block, the receiver, the traces and the refusal mark
always, GRAM but for a completed pixel; and that they only add violation codes (42_controller_commands.md R140 to
R153). -/

namespace Sys2Proof.Machine

theorem State.sameButTracker_refl (s : State) : s.sameButTracker s := ⟨rfl, rfl, rfl, rfl⟩

theorem State.sameButTracker_trans {s t u : State} (h : s.sameButTracker t) (k : t.sameButTracker u) :
    s.sameButTracker u :=
  ⟨k.1.trans h.1, k.2.1.trans h.2.1, k.2.2.1.trans h.2.2.1, k.2.2.2.trans h.2.2.2⟩

/-- What a tracker operation other than a completed pixel keeps. -/
structure TrackerOnly (s t : State) : Prop where
  same : s.sameButTracker t
  gram : t.gram = s.gram
  gramCalls : t.gramCalls = s.gramCalls
  viol : s.viol.subset t.viol

theorem TrackerOnly.refl (s : State) : TrackerOnly s s := ⟨s.sameButTracker_refl, rfl, rfl, ViolSet.subset_refl _⟩

theorem TrackerOnly.trans {s t u : State} (h : TrackerOnly s t) (k : TrackerOnly t u) : TrackerOnly s u :=
  ⟨State.sameButTracker_trans h.same k.same, k.gram.trans h.gram, k.gramCalls.trans h.gramCalls,
    ViolSet.subset_trans h.viol k.viol⟩

theorem flag_trackerOnly (c : Violation) (s : State) : TrackerOnly s (s.flag c) :=
  ⟨⟨rfl, rfl, rfl, rfl⟩, rfl, rfl, ViolSet.subset_add _ _⟩

theorem flagIf_trackerOnly (p : Bool) (c : Violation) (s : State) : TrackerOnly s (s.flagIf p c) := by
  unfold State.flagIf
  split
  · exact flag_trackerOnly c s
  · exact TrackerOnly.refl s

theorem owe_trackerOnly (o : Byte) (n : Nat) (s : State) : TrackerOnly s (owe o n s) :=
  ⟨⟨rfl, rfl, rfl, rfl⟩, rfl, rfl, ViolSet.subset_refl _⟩

theorem oweNothing_trackerOnly (s : State) : TrackerOnly s (oweNothing s) :=
  ⟨⟨rfl, rfl, rfl, rfl⟩, rfl, rfl, ViolSet.subset_refl _⟩

theorem endParameters_trackerOnly (s : State) : TrackerOnly s (endParameters s) := by
  unfold endParameters
  split
  · exact ⟨⟨rfl, rfl, rfl, rfl⟩, rfl, rfl, ViolSet.subset_add _ _⟩
  · exact TrackerOnly.refl s

theorem endHalfPixel_trackerOnly (s : State) : TrackerOnly s (endHalfPixel s) := by
  unfold endHalfPixel
  split
  · exact ⟨⟨rfl, rfl, rfl, rfl⟩, rfl, rfl, ViolSet.subset_add _ _⟩
  · exact TrackerOnly.refl s

theorem endWindow_trackerOnly (o : Byte) (s : State) : TrackerOnly s (endWindow o s) := by
  unfold endWindow
  split
  · exact ⟨⟨rfl, rfl, rfl, rfl⟩, rfl, rfl, ViolSet.subset_refl _⟩
  · split
    · exact ⟨⟨rfl, rfl, rfl, rfl⟩, rfl, rfl, ViolSet.subset_add _ _⟩
    · exact TrackerOnly.refl s

theorem endColumns_trackerOnly (o : Byte) (s : State) : TrackerOnly s (endColumns o s) := by
  unfold endColumns
  split
  · exact ⟨⟨rfl, rfl, rfl, rfl⟩, rfl, rfl, ViolSet.subset_refl _⟩
  · exact TrackerOnly.refl s

theorem commandCommon_trackerOnly (o : Byte) (s : State) : TrackerOnly s (commandCommon o s) :=
  (((endParameters_trackerOnly s).trans (endHalfPixel_trackerOnly _)).trans (endWindow_trackerOnly o _)).trans
    (endColumns_trackerOnly o _)

/-- A command frame keeps what its opcode's own rule keeps. -/
theorem takeCommand_trackerOnly (o : Byte) (act : State → State) (h : ∀ s, TrackerOnly s (act s)) (s : State) :
    TrackerOnly s (takeCommand o act s) := by
  unfold takeCommand
  split
  · exact flag_trackerOnly _ s
  · exact (commandCommon_trackerOnly o s).trans (h _)

theorem takeParameter_trackerOnly (b : Byte) (s : State) : TrackerOnly s (takeParameter b s) := by
  have hc : ∀ u : State, TrackerOnly u (completeCommand b u) := by
    intro u
    unfold completeCommand completeColumns completePages
    split
    · exact ⟨⟨rfl, rfl, rfl, rfl⟩, rfl, rfl, ViolSet.subset_refl _⟩
    split
    · exact ⟨⟨rfl, rfl, rfl, rfl⟩, rfl, rfl, ViolSet.subset_refl _⟩
    split
    · exact ⟨⟨rfl, rfl, rfl, rfl⟩, rfl, rfl, ViolSet.subset_refl _⟩
    split
    · split
      · exact ⟨⟨rfl, rfl, rfl, rfl⟩, rfl, rfl, ViolSet.subset_refl _⟩
      · exact TrackerOnly.refl u
    · exact TrackerOnly.refl u
  have h1 : TrackerOnly s { s with acc := s.acc ++ [b], need := s.need - 1 } :=
    ⟨⟨rfl, rfl, rfl, rfl⟩, rfl, rfl, ViolSet.subset_refl _⟩
  unfold takeParameter
  dsimp only
  split
  · exact (h1.trans (hc _)).trans ⟨⟨rfl, rfl, rfl, rfl⟩, rfl, rfl, ViolSet.subset_refl _⟩
  · exact h1

/-- A data frame touches the tracker only, and GRAM only by completing a pixel (R151 to R153). -/
theorem takeData_cases (b : Byte) (s : State) :
    TrackerOnly s (takeData b s) ∨
    (∃ h, s.phase = .writing ∧ s.need = 0 ∧ s.half = some h ∧
      takeData b s = { storePixel (pair h b) s with npix := s.npix + 1, half := none }) := by
  unfold takeData
  split
  · exact .inl (flag_trackerOnly _ s)
  split
  · exact .inl (takeParameter_trackerOnly b s)
  rename_i hn
  split
  · rename_i hw
    unfold takePixel
    split
    · exact .inl ⟨⟨rfl, rfl, rfl, rfl⟩, rfl, rfl, ViolSet.subset_refl _⟩
    · rename_i h hh
      exact .inr ⟨h, hw, by omega, hh, rfl⟩
  · exact .inl (flag_trackerOnly _ s)

/-- A line write touches the sequencer not at all: what it does to the block is the register and the line trace, and
`FT` grows by exactly the frame it answers; GRAM changes only where a reset pulse begins (R17, R84, R141). -/
theorem lineWrite_block (n : Line) (v : Level) (s : State) :
    (lineWrite n v s).1.block = { s.block with lines := s.lines.put n v, lt := s.lt ++ [.set n v] } ∧
    (lineWrite n v s).1.refused = s.refused ∧
    ((lineWrite n v s).1.gram = s.gram ∨
      n = .rst ∧ v = false ∧ s.lines.rst ≠ some false ∧ (lineWrite n v s).1.gram = (freeGram s).gram) ∧
    (lineWrite n v s).1.gramCalls = s.gramCalls ∧ s.viol.subset (lineWrite n v s).1.viol ∧
    (lineWrite n v s).1.ft = s.ft ++ (lineWrite n v s).2.toList := by
  have ht : (trackReset n v s).block = s.block ∧ (trackReset n v s).refused = s.refused ∧
      ((trackReset n v s).gram = s.gram ∨
        n = .rst ∧ v = false ∧ s.lines.rst ≠ some false ∧ (trackReset n v s).gram = (freeGram s).gram) ∧
      (trackReset n v s).gramCalls = s.gramCalls ∧
      s.viol.subset (trackReset n v s).viol ∧ (trackReset n v s).ft = s.ft := by
    rcases trackReset_cases n v s with ⟨e, -⟩ | ⟨hn, hv, hl, e⟩ | ⟨-, -, -, -, e⟩ | ⟨-, -, -, -, e⟩ <;> rw [e]
    · exact ⟨rfl, rfl, .inl rfl, rfl, ViolSet.subset_refl _, rfl⟩
    · exact ⟨rfl, rfl, .inr ⟨hn, hv, hl, rfl⟩, rfl, ViolSet.subset_refl _, rfl⟩
    · exact ⟨rfl, rfl, .inl rfl, rfl, ViolSet.subset_refl _, rfl⟩
    · exact ⟨rfl, rfl, .inl rfl, rfl, ViolSet.subset_add _ _, rfl⟩
  obtain ⟨o, r, b, x, w, fs, d, e, hw, hf⟩ := receive_frame n v (trackReset n v s)
  obtain ⟨h1, h2, h3, h4, h5, h6⟩ := ht
  simp only [State.block, BlockView.mk.injEq] at h1
  refine ⟨?_, ?_, ?_, ?_, ?_, ?_⟩ <;> simp only [lineWrite, e]
  · simp [State.block, h1]
  · exact h2
  · exact h3
  · exact h4
  · exact ViolSet.subset_trans h5 hw
  · rw [hf, h6]

end Sys2Proof.Machine
end

