-- ==== Sys2Proof/Laws/Step.lean ====
section
/-! SUPPORT. What one step can do, said once: idle, at a line write, at a wait (10_state.md R25 to R27, 00_scope.md
R18); every claim about all steps is derived from these. -/

namespace Sys2Proof.Machine

/-- A frame's meaning keeps the block, the receiver, the traces and the refusal mark, and only adds codes (R140). -/
theorem exec_frame_same {i : Instr} {s t : State} (hi : i.isRequest = false) (h : exec i s = .next t) :
    s.sameButTracker t ∧ s.viol.subset t.viol := by
  have hd : ∀ b, t = takeData b s → s.sameButTracker t ∧ s.viol.subset t.viol := by
    rintro b rfl
    rcases takeData_cases b s with k | ⟨h, -, -, -, e⟩
    · exact ⟨k.same, k.viol⟩
    · rw [e]; exact ⟨⟨rfl, rfl, rfl, rfl⟩, ViolSet.subset_refl _⟩
  have hc : ∀ o act, (∀ u, TrackerOnly u (act u)) → t = takeCommand o act s →
      s.sameButTracker t ∧ s.viol.subset t.viol := by
    rintro o act ha rfl
    exact ⟨(takeCommand_trackerOnly o act ha s).same, (takeCommand_trackerOnly o act ha s).viol⟩
  cases i <;> first | (cases hi; done) | cases h
  case dataParameter b => exact hd b rfl
  case dataPixel b => exact hd b rfl
  case dataStray b => exact hd b rfl
  case sleepOut =>
    refine hc _ _ (fun u => (oweNothing_trackerOnly u).trans ?_) rfl
    unfold sleepOutRule
    split
    · exact ⟨⟨rfl, rfl, rfl, rfl⟩, rfl, rfl, ViolSet.subset_refl _⟩
    · exact flag_trackerOnly _ _
  case displayOn =>
    refine hc _ _ (fun u => (oweNothing_trackerOnly u).trans ?_) rfl
    unfold displayOnRule
    split
    · exact ⟨⟨rfl, rfl, rfl, rfl⟩, rfl, rfl, ViolSet.subset_refl _⟩
    · exact flag_trackerOnly _ _
  case pageAddressSet =>
    refine hc _ _ (fun u => (owe_trackerOnly 0x2B 4 u).trans ?_) rfl
    unfold pageAddressRule
    split
    · exact flagIf_trackerOnly _ _ _
    · exact flag_trackerOnly _ _
  case memoryWrite =>
    refine hc _ _ (fun u => (oweNothing_trackerOnly u).trans ?_) rfl
    unfold memoryWriteRule
    split
    · exact (flagIf_trackerOnly _ _ _).trans ⟨⟨rfl, rfl, rfl, rfl⟩, rfl, rfl, ViolSet.subset_refl _⟩
    · exact flag_trackerOnly _ _
    all_goals exact TrackerOnly.refl _
  case commandUnlisted o => exact hc _ _ (fun u => (oweNothing_trackerOnly u).trans (flag_trackerOnly _ _)) rfl
  all_goals exact hc _ _ (fun u => (owe_trackerOnly _ _ u).trans (flagIf_trackerOnly _ _ _)) rfl

/-- A request accepted by the idle block, in one shape (R27, R176). -/
theorem accept_idle_shape (op : Operation) (a b c d : Half) {s : State} (hc : s.cur = none) :
    ∃ op' a' b' c' d' v j, s.viol.subset v ∧ (s.inited = true → j = true) ∧ accept op a b c d s =
      { s with cur := some op', pc := 0, latchA := a', latchB := b', latchC := c', latchD := d', viol := v,
               inited := j } := by
  rw [accept_idle _ _ _ _ _ hc]
  obtain ⟨v, j, e, hv, hj⟩ := operationChecks_eq op
    { s with cur := some op, pc := 0, latchA := a, latchB := b, latchC := c, latchD := d }
  exact ⟨_, _, _, _, _, v, j, hv, hj, e⟩

/-- A request's meaning: held while busy; else refused, or accepted (R27, R80). -/
theorem exec_request_cases {i : Instr} {s t : State} (hi : i.isRequest = true) (h : exec i s = .next t) :
    (s.cur ≠ none ∧ t = s) ∨ (s.cur = none ∧ t = { s with refused := true }) ∨
    (s.cur = none ∧ ∃ op a b c d v j, s.viol.subset v ∧ (s.inited = true → j = true) ∧ t =
      { s with cur := some op, pc := 0, latchA := a, latchB := b, latchC := c, latchD := d, viol := v, inited := j }) := by
  by_cases hc : s.cur = none
  · have ha : ∀ op a b c d, (.next (accept op a b c d s) : Result) = .next t →
        ∃ op a b c d v j, s.viol.subset v ∧ (s.inited = true → j = true) ∧ t =
          { s with cur := some op, pc := 0, latchA := a, latchB := b, latchC := c, latchD := d, viol := v,
                   inited := j } := by
      intro op a b c d e
      cases e
      exact accept_idle_shape op a b c d hc
    refine .inr ?_
    cases i with
    | reservedReq =>
      refine .inl ⟨hc, ?_⟩
      have e : refuse s = t := by injection h
      rw [← e, refuse, State.busy, hc]
      rfl
    | writeByte | writeCommand | writeData | initDisplay | setAddressWindow | drawPixel =>
      exact .inr ⟨hc, ha _ _ _ _ _ h⟩
    | _ => cases hi
  · have ha : ∀ op a b c d, (.next (accept op a b c d s) : Result) = .next t → t = s := by
      intro op a b c d e
      cases e
      exact accept_busy _ _ _ _ _ hc
    refine .inl ⟨hc, ?_⟩
    cases i with
    | reservedReq =>
      have e : refuse s = t := by injection h
      rw [← e, refuse, State.busy, if_pos (Option.isSome_iff_ne_none.2 hc)]
    | writeByte | writeCommand | writeData | initDisplay | setAddressWindow | drawPixel => exact ha _ _ _ _ _ h
    | _ => cases hi

theorem decodeSymbol_isFrame (k : DataKind) (w : SymbolWord) : (decodeSymbol k w).isRequest = false := by
  unfold decodeSymbol decodeData decodeCommand
  split
  · cases k <;> rfl
  · (repeat' split) <;> rfl

theorem decodeRequest_isRequest {w : RequestWord} {i : Instr} (h : decodeRequest w = .ok i) :
    i.isRequest = true := by
  unfold decodeRequest decodeByteRequest at h
  (repeat' split at h) <;> cases h <;> rfl

/-- A step of the idle block: nothing presented, a request refused, or a request accepted (R27, R80, R190). -/
theorem step_idle {s : State} (hc : s.cur = none) : ∃ t, step s = .next t ∧
    (t = s ∨ (∃ rest, t = { s with requests := rest, refused := true }) ∨
     (∃ rest op a b c d v j, s.viol.subset v ∧ (s.inited = true → j = true) ∧ t =
      { s with requests := rest, cur := some op, pc := 0, latchA := a, latchB := b, latchC := c, latchD := d,
               viol := v, inited := j })) := by
  cases hr : s.requests with
  | nil => exact ⟨s, by simp [step, fetch, hc, presentRequest, hr], .inl rfl⟩
  | cons w rest =>
    cases hd : decodeRequest w with
    | rejected e =>
      exact ⟨{ s with requests := rest, refused := true },
        by simp [step, fetch, hc, presentRequest, hr, hd, refuse, State.busy], .inr (.inl ⟨rest, rfl⟩)⟩
    | ok i =>
      obtain ⟨t, ht⟩ := exec_answers i { s with requests := rest }
      refine ⟨t, by simp [step, fetch, hc, presentRequest, hr, hd, ← ht], ?_⟩
      rcases exec_request_cases (decodeRequest_isRequest hd) ht with
        ⟨h, -⟩ | ⟨-, e⟩ | ⟨-, op, a, b, c, d, v, j, hv, hj, e⟩
      · exact absurd hc h
      · exact .inr (.inl ⟨rest, e⟩)
      · exact .inr (.inr ⟨rest, op, a, b, c, d, v, j, hv, hj, e⟩)

/-- What a busy step fetches. -/
theorem fetch_busy {s : State} {op : Operation} {m : MicroOp} (hc : s.cur = some op)
    (hm : (s.expansion op)[s.pc]? = some m) : fetch s = some (performMicroOp (s.expansion op).length m s) := by
  unfold fetch
  split
  · rename_i h; rw [hc] at h; cases h
  · rename_i op' h
    rw [hc] at h
    cases h
    rw [hm]

/-- A step at a wait (R18). -/
theorem step_wait {s : State} {op : Operation} {k : Nat} (hc : s.cur = some op)
    (hm : (s.expansion op)[s.pc]? = some (.wait k)) : step s = .next (waitStep (s.expansion op).length k s) := by
  unfold step
  rw [fetch_busy hc hm]
  rfl

/-- A step at a line write: the write, the advance, and the closed frame's meaning where one closes (R25, R84). -/
theorem step_set {s : State} {op : Operation} {n : Line} {v : Level} (hc : s.cur = some op)
    (hm : (s.expansion op)[s.pc]? = some (.set n v)) :
    step s =
      match (lineWrite n v s).2 with
      | none => .next (advance (s.expansion op).length (lineWrite n v s).1)
      | some f => exec (decodeSymbol (dataKind (lineWrite n v s).1) f.symbol)
          (advance (s.expansion op).length (lineWrite n v s).1) := by
  unfold step
  rw [fetch_busy hc hm]
  simp only [performMicroOp]
  cases (lineWrite n v s).2 <;> rfl

/-- What a step at a line write does to everything but the tracker and the receiver's own fields (R17, R25, R34). -/
theorem step_set_block {s : State} {op : Operation} {n : Line} {v : Level} (hc : s.cur = some op)
    (hm : (s.expansion op)[s.pc]? = some (.set n v)) :
    ∃ t, step s = .next t ∧
      t.block = (advance (s.expansion op).length { s with lines := s.lines.put n v, lt := s.lt ++ [.set n v] }).block ∧
      t.refused = s.refused ∧ s.viol.subset t.viol ∧ t.ft = s.ft ++ (lineWrite n v s).2.toList := by
  obtain ⟨h1, h2, -, -, h5, h6⟩ := lineWrite_block n v s
  simp only [State.block, BlockView.mk.injEq] at h1
  have hb : (advance (s.expansion op).length (lineWrite n v s).1).block =
      (advance (s.expansion op).length { s with lines := s.lines.put n v, lt := s.lt ++ [.set n v] }).block := by
    simp [State.block, advance_eq, h1]
  have hr : (advance (s.expansion op).length (lineWrite n v s).1).refused = s.refused := by simp [advance_eq, h2]
  have hv : s.viol.subset (advance (s.expansion op).length (lineWrite n v s).1).viol := by
    simpa [advance_eq] using h5
  have hf : (advance (s.expansion op).length (lineWrite n v s).1).ft = s.ft ++ (lineWrite n v s).2.toList := by
    simp [advance_eq, h6]
  rw [step_set hc hm]
  cases hq : (lineWrite n v s).2 with
  | none => exact ⟨_, rfl, hb, hr, hv, hf.trans (by rw [hq])⟩
  | some f =>
    obtain ⟨t, ht⟩ := exec_answers (decodeSymbol (dataKind (lineWrite n v s).1) f.symbol)
      (advance (s.expansion op).length (lineWrite n v s).1)
    obtain ⟨k1, k2⟩ := exec_frame_same (decodeSymbol_isFrame _ _) ht
    have kf : t.ft = (advance (s.expansion op).length (lineWrite n v s).1).ft := congrArg ReceiverView.ft k1.2.1
    exact ⟨t, ht, k1.1.trans hb, k1.2.2.1.trans hr, ViolSet.subset_trans hv k2, kf.trans (hf.trans (by rw [hq]))⟩

/-- A busy state whose `pc` is no index of the expansion has no step (log entry 14). -/
theorem step_past_end {s : State} {op : Operation} (hc : s.cur = some op) (hm : (s.expansion op)[s.pc]? = none) :
    step s = .fault .noMicroOperation := by
  unfold step fetch
  split
  · rfl
  all_goals
    rename_i h
    split at h
    · rename_i h'; rw [hc] at h'; cases h'
    · rename_i op' h'
      rw [hc] at h'
      cases h'
      rw [hm] at h
      cases h

end Sys2Proof.Machine
end

