-- ==== Sys2Proof/Tests/Slice0.lean ====
section
/-! SUPPORT. The model's own tests: ill-formed terms refused, every constructor decoded from a word written out from the
tables R76, R78, R79, the expansions of 95_test_vectors.md, one step of each instruction, and for every obligation with
hypotheses the states that meet them (`witness_` and the obligation's name). -/

namespace Sys2Proof.Machine.Tests

/-! ## Helpers -/

/-- The build of 95_test_vectors.md. -/
def vectorBuild : Config.Params := ⟨15, 0, 15, 15, 10, 0xA1, 0xA2, 0xA3, false, [.rst, .cs, .rs, .data, .clk, .bl]⟩

/-- The next state, if there is one. -/
def next? : Result → Option State
  | .next s => some s
  | .fault _ => none
  | .refused _ => none

/-- One field, or several, of the next state. -/
def after {α : Type} (r : Result) (f : State → α) : Option α := (next? r).map f

/-- The controller released from reset: phase `Sleeping`, lines idle. -/
def asleep : State :=
  { State.reset with
    lines := ⟨some true, some true, some true, some true, some true, some true⟩, inited := true, phase := .sleeping }

/-- `ST_INIT` of 95_test_vectors.md, without its traces. -/
def awake : State :=
  { asleep with
    lines := ⟨some true, some true, some false, some true, some true, some true⟩
    phase := .awakeIdle, slpout := true, fmt16 := true, mac := some 0xA3 }

/-- A window set (V40's), the memory-write not yet sent. -/
def windowed : State := { awake with phase := .windowed, win := some ⟨0x14, 0x15, 0x0A, 0x0B⟩ }

/-- The same window with its stream open. -/
def streaming : State := { windowed with phase := .writing }

/-- Collecting the last of a command's bytes. -/
def collecting (o : Byte) (acc : List Byte) (s : State) : State := { s with cmd := some o, need := 1, acc := acc }

/-- `writeByte(0xA5)` just accepted. -/
def sendingByte : State := { awake with cur := some .writeByte, latchA := 0xA5 }

/-- `writeCommand(0x29)` at its last micro-operation, eight bits sampled. -/
def closing : State := { placeSymbol asleep 0x029 with slpout := true }

/-! ## Well-formedness: one ill-formed term for each check -/

theorem test_reservedReq_refuses_a_listed_operation : (Instr.reservedReq 5 0 0 0 0).wellFormed = false := by decide
theorem test_reservedReq_takes_six_and_seven :
    (Instr.reservedReq 6 0 0 0 0).wellFormed = true ∧ (Instr.reservedReq 7 1 2 3 4).wellFormed = true := by decide
theorem test_commandUnlisted_refuses_listed_opcodes :
    ∀ o ∈ listedOpcodes, (Instr.commandUnlisted o).wellFormed = false := by decide
theorem test_commandUnlisted_takes_display_off : (Instr.commandUnlisted 0x28).wellFormed = true := by decide

/-! ## Decoding: a word for each constructor -/

/-- V1: `0:00A5:0000:0000:0000`. -/
theorem test_decode_writeByte : decodeTableWord 72 0x000A5000000000000 = some (.writeByte 0xA5 0 0 0) := by decide
/-- V4: `1:002C:0000:0000:0000`. -/
theorem test_decode_writeCommand :
    decodeTableWord 72 0x1002C000000000000 = some (.writeCommand 0x2C 0 0 0) := by decide
/-- V5: `2:0055:0000:0000:0000`. -/
theorem test_decode_writeData : decodeTableWord 72 0x20055000000000000 = some (.writeData 0x55 0 0 0) := by decide
/-- V20: `3:0000:0000:0000:0000`. -/
theorem test_decode_initDisplay : decodeTableWord 72 0x30000000000000000 = some (.initDisplay 0 0 0 0) := by decide
/-- V30: `4:0000:00EF:0000:013F`. -/
theorem test_decode_setAddressWindow :
    decodeTableWord 72 0x4000000EF0000013F = some (.setAddressWindow 0 239 0 319) := by decide
/-- V40: `5:000A:0014:F800:0000`. -/
theorem test_decode_drawPixel :
    decodeTableWord 72 0x5000A0014F8000000 = some (.drawPixel 10 20 0xF800 0) := by decide
/-- R80: `6:1234:5678:9ABC:DEF0`. -/
theorem test_decode_reservedReq :
    decodeTableWord 72 0x6123456789ABCDEF0 = some (.reservedReq 6 0x1234 0x5678 0x9ABC 0xDEF0) := by decide
theorem test_decode_vcomControl : decodeTableWord 16 0b011000101 = some .vcomControl := by decide
theorem test_decode_memoryAccessControl : decodeTableWord 16 0b000110110 = some .memoryAccessControl := by decide
theorem test_decode_pixelFormatSet : decodeTableWord 16 0b000111010 = some .pixelFormatSet := by decide
theorem test_decode_sleepOut : decodeTableWord 16 0b000010001 = some .sleepOut := by decide
theorem test_decode_displayOn : decodeTableWord 16 0b000101001 = some .displayOn := by decide
theorem test_decode_columnAddressSet : decodeTableWord 16 0b000101010 = some .columnAddressSet := by decide
theorem test_decode_pageAddressSet : decodeTableWord 16 0b000101011 = some .pageAddressSet := by decide
theorem test_decode_memoryWrite : decodeTableWord 16 0b000101100 = some .memoryWrite := by decide
theorem test_decode_dataParameter : decodeTableWord 16 0b111000101 = some (.dataParameter 0xC5) := by decide
theorem test_decode_dataPixel : decodeSymbol .pixel 0b111111000 = .dataPixel 0xF8 := by decide
theorem test_decode_dataStray : decodeSymbol .stray 0b100000000 = .dataStray 0 := by decide
theorem test_decode_commandUnlisted : decodeTableWord 16 0b000101000 = some (.commandUnlisted 0x28) := by decide
/-- R80: a value that is not a `uint8` is no instruction. -/
theorem test_decode_illFormed :
    decodeRequest 0x00100000000000000 = .rejected (.operandNotAByte 0 0x100) ∧
      decodeTableWord 72 0x2FFFF000000000000 = none := by decide

/-! ## Expansions (95_test_vectors.md V1 to V6, V20, V30, V40) -/

/-- V1. -/
theorem test_expansion_writeByte :
    expansion vectorBuild .writeByte 0xA5 0 0 0 =
      [.set .clk false, .set .data true, .set .clk true, .set .clk false, .set .data false, .set .clk true,
        .set .clk false, .set .data true, .set .clk true, .set .clk false, .set .data false, .set .clk true,
        .set .clk false, .set .data false, .set .clk true, .set .clk false, .set .data true, .set .clk true,
        .set .clk false, .set .data false, .set .clk true, .set .clk false, .set .data true, .set .clk true] := by
  decide

/-- V4. -/
theorem test_expansion_writeCommand :
    expansion vectorBuild .writeCommand 0x2C 0 0 0 =
      [.set .cs false, .set .rs false,
        .set .clk false, .set .data false, .set .clk true, .set .clk false, .set .data false, .set .clk true,
        .set .clk false, .set .data true, .set .clk true, .set .clk false, .set .data false, .set .clk true,
        .set .clk false, .set .data true, .set .clk true, .set .clk false, .set .data true, .set .clk true,
        .set .clk false, .set .data false, .set .clk true, .set .clk false, .set .data false, .set .clk true,
        .set .cs true] := by decide

/-- V5: the first three cells. -/
theorem test_expansion_writeData :
    (expansion vectorBuild .writeData 0x55 0 0 0).take 8 =
      [.set .cs false, .set .rs true, .set .clk false, .set .data false, .set .clk true,
        .set .clk false, .set .data true, .set .clk true] := by decide

set_option maxRecDepth 8000 in
/-- V20: the pc of each wait and of the reset pulse. -/
theorem test_expansion_initDisplay :
    let x := expansion vectorBuild .initDisplay 0 0 0 0
    x.length = 257 ∧ x.take 13 =
        [.set .rst true, .set .cs true, .set .rs true, .set .data true, .set .clk true, .set .bl true, .wait 15,
          .set .rst true, .wait 0, .set .rst false, .wait 15, .set .rst true, .wait 15] ∧
      x[228]? = some (.set .cs true) ∧ x[229]? = some (.wait 10) ∧ x[230]? = some (.set .cs false) :=
  ⟨rfl, rfl, rfl, rfl, rfl⟩

set_option maxRecDepth 8000 in
/-- V30: the frames' bytes in order, `rowEnd = 239` and `colEnd = 319` big-endian. -/
theorem test_expansion_setAddressWindow :
    expansion vectorBuild .setAddressWindow 0 239 0 319 =
      commandOps 0x2A ++ dataOps 0 ++ dataOps 0 ++ dataOps 0 ++ dataOps 0xEF ++ commandOps 0x2B ++ dataOps 0 ++
        dataOps 0 ++ dataOps 0x01 ++ dataOps 0x3F ++ commandOps 0x2C := rfl

set_option maxRecDepth 8000 in
/-- V40: the y pair follows 0x2A, the x pair 0x2B (R131). -/
theorem test_expansion_drawPixel :
    expansion vectorBuild .drawPixel 10 20 0xF800 0 =
      commandOps 0x2A ++ dataOps 0 ++ dataOps 0x14 ++ dataOps 0 ++ dataOps 0x15 ++ commandOps 0x2B ++ dataOps 0 ++
        dataOps 0x0A ++ dataOps 0 ++ dataOps 0x0B ++ commandOps 0x2C ++ dataOps 0xF8 ++ dataOps 0 := rfl

/-- R133's four values. -/
theorem test_inc16 : inc16 0 = 1 ∧ inc16 0xFF = 0x100 ∧ inc16 0x7FFF = 0x8000 ∧ inc16 0xFFFF = 0 := by decide
/-- E1, E2. -/
theorem test_split : hi8 300 = 0x01 ∧ lo8 300 = 0x2C ∧ hi8 255 = 0 ∧ lo8 255 = 0xFF ∧ hi8 256 = 1 ∧ lo8 256 = 0 := by
  decide

/-! ## One step of each instruction -/

/-- V1 from `ST_RESET`: accepted, `V_UNINIT`. -/
theorem test_writeByte :
    after (exec (.writeByte 0xA5 1 2 3) State.reset) (fun t => (t.cur, t.latchA, t.latchD, t.viol)) =
      some (some .writeByte, 0xA5, 3, { ViolSet.empty with uninit := true }) := by decide
theorem test_writeCommand :
    after (exec (.writeCommand 0x2C 0 0 0) awake) (fun t => (t.cur, t.pc, t.latchA, t.viol)) =
      some (some .writeCommand, 0, 0x2C, ViolSet.empty) := by decide
theorem test_writeData :
    after (exec (.writeData 0x55 0 0 0) awake) (fun t => (t.cur, t.latchA)) = some (some .writeData, 0x55) := by decide
/-- V20 and V22: the first `initialize` flags nothing, the second `V_REINIT`. -/
theorem test_initDisplay :
    after (exec (.initDisplay 0 0 0 0) State.reset) (fun t => (t.cur, t.inited, t.viol)) =
        some (some .initDisplay, true, ViolSet.empty) ∧
      after (exec (.initDisplay 0 0 0 0) awake) (fun t => (t.inited, t.viol)) =
        some (true, { ViolSet.empty with reinit := true }) := by decide
theorem test_setAddressWindow :
    after (exec (.setAddressWindow 0 239 0 319) awake) (fun t => (t.latchA, t.latchB, t.latchC, t.latchD)) =
      some (0, 239, 0, 319) := by decide
theorem test_drawPixel_held_while_busy :
    after (exec (.drawPixel 10 20 0xF800 0) sendingByte) (fun t => (t.cur, t.latchA)) =
      some (some .writeByte, 0xA5) := by decide
theorem test_reservedReq :
    after (exec (.reservedReq 6 0 0 0 0) awake) (fun t => (t.cur, t.refused, t.viol)) =
      some (none, true, ViolSet.empty) := by decide
/-- R143's example. -/
theorem test_vcomControl :
    after (exec .vcomControl asleep) (fun t => (t.cmd, t.need, t.phase, t.viol)) =
      some (some 0xC5, 2, .sleeping, ViolSet.empty) := by decide
theorem test_memoryAccessControl_awake :
    after (exec .memoryAccessControl awake) (fun t => (t.cmd, t.need, t.viol)) =
      some (some 0x36, 1, { ViolSet.empty with unlisted := true }) := by decide
theorem test_pixelFormatSet :
    after (exec .pixelFormatSet asleep) (fun t => (t.cmd, t.need)) = some (some 0x3A, 1) := by decide
/-- R146's example. -/
theorem test_sleepOut : after (exec .sleepOut asleep) (fun t => (t.phase, t.slpout)) = some (.sleeping, true) := by
  decide
/-- R147: display-on without sleep-out. -/
theorem test_displayOn_without_sleepOut :
    after (exec .displayOn asleep) (fun t => (t.phase, t.viol)) =
      some (.sleeping, { ViolSet.empty with unlisted := true }) := by decide
theorem test_displayOn :
    after (exec .displayOn { asleep with slpout := true }) (fun t => (t.phase, t.viol)) =
      some (.awakeIdle, ViolSet.empty) := by decide
/-- R148 after an open stream, half a pixel pending: `V_HALFPIX`, and listed (R142). -/
theorem test_columnAddressSet_ends_stream :
    after (exec .columnAddressSet { streaming with half := some 0xF8 }) (fun t => (t.phase, t.need, t.half, t.viol)) =
      some (.awakeIdle, 4, none, { ViolSet.empty with halfpix := true }) := by decide
/-- R149 without a column-address-set. -/
theorem test_pageAddressSet_without_columns :
    after (exec .pageAddressSet awake) (fun t => (t.need, t.viol)) =
      some (4, { ViolSet.empty with worder := true }) := by decide
/-- R149's example, its last byte. -/
theorem test_pageAddressSet_completes :
    after (exec (.dataParameter 0x0B) (collecting 0x2B [0x00, 0x0A, 0x00] { awake with caDone := some (0x14, 0x15) }))
        (fun t => (t.phase, t.win)) = some (.windowed, some ⟨0x14, 0x15, 0x0A, 0x0B⟩) := by decide
/-- R150's example. -/
theorem test_memoryWrite :
    after (exec .memoryWrite windowed) (fun t => (t.phase, t.npix, t.viol)) =
      some (.writing, 0, ViolSet.empty) := by decide
/-- R150: a second memory-write ends the stream. -/
theorem test_memoryWrite_again :
    after (exec .memoryWrite streaming) (fun t => (t.phase, t.viol)) = some (.awakeIdle, ViolSet.empty) := by decide
/-- R144's example. -/
theorem test_dataParameter :
    after (exec (.dataParameter 0xA3) (collecting 0x36 [] asleep)) (fun t => (t.mac, t.need, t.cmd)) =
      some (some 0xA3, 0, none) := by decide
theorem test_dataPixel_high_byte :
    after (exec (.dataPixel 0xF8) streaming) (fun t => (t.half, t.npix)) = some (some 0xF8, 0) := by decide
/-- R152: the call is of pixel 0 with colour 0xF800. -/
theorem test_dataPixel_low_byte :
    after (exec (.dataPixel 0x00) { streaming with half := some 0xF8 }) (fun t => (t.half, t.npix, t.gramCalls)) =
      some (none, 1, [⟨some 0xA3, some ⟨0x14, 0x15, 0x0A, 0x0B⟩, 0, 0xF800⟩]) := by decide
/-- R153, in `Windowed`. -/
theorem test_dataStray :
    after (exec (.dataStray 0x12) windowed) (fun t => (t.phase, t.viol)) =
      some (.windowed, { ViolSet.empty with straydata := true }) := by decide
/-- R154 straight after a window-set: `V_WORDER` too (R142). -/
theorem test_commandUnlisted :
    after (exec (.commandUnlisted 0x28) windowed) (fun t => (t.phase, t.viol)) =
      some (.awakeIdle, { ViolSet.empty with worder := true, unlisted := true }) := by decide
/-- A step that closes the frame `0x029` appends it and wakes the controller. -/
theorem test_step_closes_frame :
    after (step closing) (fun t => (t.cur, t.ft, t.phase, t.lines.cs)) =
      some (none, [⟨false, 0x29⟩], .awakeIdle, some true) := by decide
/-- R141: a reset pulse begins; the tracker keeps nothing, and GRAM is the free answer for pulse 0. -/
theorem test_reset_pulse :
    let t := (lineWrite .rst false { streaming with gram := [(0, 0xF800)] }).1
    (t.phase, t.win, t.mac, t.resets, t.lines.rst) = (.uninit, none, none, 1, some false) ∧
      t.gram = Memory.writeAll [] (Config.gramAfterReset 0 [(0, 0xF800)]) := ⟨by decide, rfl⟩
/-- A step that presents `writeByte(0xA5)` to the machine after reset. -/
theorem test_step_presents_request :
    after (step (State.reset.withFetchWord 72 0x000A5000000000000)) (fun t => (t.cur, t.requests)) =
      some (some .writeByte, []) := by decide

/-! ## Witnesses: states that meet the hypotheses of each obligation -/

/-- DecodeOfEncodeIsTheInstruction: a request, a listed command, and a data byte of each kind. -/
theorem witness_DecodeOfEncodeIsTheInstruction :
    ((Instr.reservedReq 7 0xFFFF 0 0 0).wellFormed = true ∧ (Instr.reservedReq 7 0xFFFF 0 0 0).dataKind = none) ∧
    ((Instr.commandUnlisted 0).wellFormed = true ∧ (Instr.commandUnlisted 0).dataKind = none) ∧
    ((Instr.dataPixel 0xFF).wellFormed = true ∧ (Instr.dataPixel 0xFF).dataKind = some .pixel) := by decide
theorem witness_EncodeOfDecodeIsTheWord :
    decode .stray (.symbol 0x1FF) = .ok (.dataStray 0xFF) ∧
      decode .pixel (.request 0x000FF000000000000) = .ok (.writeByte 0xFF 0 0 0) := by decide
/-- OnlyIllFormedRequestsAreRejected has no hypothesis; both sides hold at the boundary `a = 0x100` and fail at
`a = 0xFF` and at `op = 3`. -/
theorem witness_OnlyIllFormedRequestsAreRejected :
    ((reqOp 0x20100000000000000).toNat < 3 ∧ 256 ≤ (reqA 0x20100000000000000).toNat) ∧
    ¬256 ≤ (reqA 0x200FF000000000000).toNat ∧ ¬(reqOp 0x30100000000000000).toNat < 3 := by decide
/-- ExpansionsHaveTheirSizes and InitializeFollowsItsSteps: a legal build. -/
theorem witness_legal_build : vectorBuild.legal := by decide
theorem witness_legal_build_eager : ({ vectorBuild with eagerRamwr := true } : Config.Params).legal := by decide
/-- ByteBodyIsEightCellsMostSignificantFirst and FrameFollowsItsIndexTable: both ends of `j`. -/
theorem witness_cell_index : 0 < 8 ∧ 7 < 8 := by decide
/-- IdleBlockAcceptsOperations, IdleBlockAcceptsInitialize, ReservedRequestIsRefused: an idle block, both values of
`inited`. -/
theorem witness_idle : State.reset.cur = none ∧ State.reset.inited = false ∧ awake.cur = none ∧ awake.inited = true := by
  decide
theorem witness_StepRefusesReservedAndIllFormedRequests :
    let s := { awake with requests := [0x60000000000000000] }
    let u := { awake with requests := [0x20100000000000000] }
    (s.cur = none ∧ s.requests = 0x60000000000000000 :: [] ∧ 6 ≤ (reqOp 0x60000000000000000).toNat) ∧
    (u.cur = none ∧ u.requests = 0x20100000000000000 :: [] ∧ (reqOp 0x20100000000000000).toNat < 3 ∧
      256 ≤ (reqA 0x20100000000000000).toNat) := by decide
theorem witness_RequestIsHeldWhileBusy :
    sendingByte.cur ≠ none ∧ (Instr.drawPixel 10 20 0xF800 0).isRequest = true := by decide
theorem witness_RequestsChangeOnlyTheSequencerAndMarks :
    (Instr.initDisplay 0 0 0 0).isRequest = true ∧ ∃ t, exec (.initDisplay 0 0 0 0) awake = .next t := ⟨rfl, _, rfl⟩
theorem witness_StepRunsThePresentedRequest :
    let s := { awake with requests := [0x5000A0014F8000000] }
    (s.cur = none ∧ s.requests = 0x5000A0014F8000000 :: [] ∧
      decodeRequest 0x5000A0014F8000000 = .ok (.drawPixel 10 20 0xF800 0)) ∧
    awake.runEnded := by
  refine ⟨by decide, rfl, rfl⟩
theorem witness_StepRunsTheClosedFrame :
    closing.cur = some .writeCommand ∧ (closing.expansion .writeCommand)[closing.pc]? = some (.set .cs true) ∧
      closing.lines.cs = some false ∧ closing.rxBits.length = 8 ∧ closing.rxBad = false ∧
      closing.rxRs = some false := by decide
/-- StepPerformsTheLineWrite: the first and the last index of an expansion. -/
theorem witness_StepPerformsTheLineWrite :
    (sendingByte.cur = some .writeByte ∧
      (sendingByte.expansion .writeByte)[sendingByte.pc]? = some (.set .clk false)) ∧
    ((closing.expansion .writeCommand)[closing.pc]? = some (.set .cs true) ∧
      closing.pc + 1 = (closing.expansion .writeCommand).length) := by decide

/-- `initialize` at its first wait, pc 6. -/
def stabilising (delays : List Nat) : State := { awake with cur := some .initDisplay, pc := 6, delays := delays }

theorem stabilising_wait (delays : List Nat) :
    ((stabilising delays).expansion .initDisplay)[(stabilising delays).pc]? = some (.wait build.tStab) := by
  have h : build.lineOrder.length = 6 := (pickOrder_perm Config.lineOrderCode Line.all).length_eq
  change (initDisplayOps build)[6]? = _
  simp [initDisplayOps, initIdleLevels, h]

theorem build_tStab_ne_zero : build.tStab ≠ 0 := by
  change 15 + Config.tStabOver ≠ 0
  omega

/-- The report that just suffices. -/
theorem witness_WaitCompletesOnAReport :
    let s := stabilising [build.tStab]
    s.cur = some .initDisplay ∧ (s.expansion .initDisplay)[s.pc]? = some (.wait build.tStab) ∧ build.tStab ≠ 0 ∧
      s.delays = build.tStab :: [] ∧ build.tStab ≤ build.tStab :=
  ⟨rfl, stabilising_wait _, build_tStab_ne_zero, rfl, Nat.le_refl _⟩
/-- The report that just does not, and none at all. -/
theorem witness_WaitNeverCompletesEarly :
    let s := stabilising [build.tStab - 1]
    (s.cur = some .initDisplay ∧ (s.expansion .initDisplay)[s.pc]? = some (.wait build.tStab) ∧ build.tStab ≠ 0 ∧
      s.delays = (build.tStab - 1) :: [] ∧ build.tStab - 1 < build.tStab) ∧
    ((stabilising []).cur = some .initDisplay ∧
      ((stabilising []).expansion .initDisplay)[(stabilising []).pc]? = some (.wait build.tStab) ∧
      (stabilising []).delays = []) :=
  ⟨⟨rfl, stabilising_wait _, build_tStab_ne_zero, rfl, Nat.pred_lt build_tStab_ne_zero⟩,
    rfl, stabilising_wait _, rfl⟩
/-- BusyStepHoldsRequestsAndLatches and EachOperationWritesItsOwnLines: a busy step, of `writeByte` and of another. -/
theorem witness_busy_step :
    sendingByte.cur = some .writeByte ∧ (∃ t, step sendingByte = .next t) ∧ closing.cur = some .writeCommand ∧
      ∃ t, step closing = .next t := ⟨rfl, ⟨_, rfl⟩, rfl, _, rfl⟩
/-- EachOperationWritesItsOwnLines: an idle step, and lines never driven after a step. -/
theorem witness_EachOperationWritesItsOwnLines :
    State.reset.cur = none ∧ ∃ t, step State.reset = .next t ∧ t.lines.get .bl = none := ⟨rfl, _, rfl, rfl⟩
theorem witness_ChipSelectFallOpensAFrame :
    State.reset.lines.cs ≠ some false ∧ awake.lines.cs ≠ some false ∧ closing.lines.cs = some false := by decide

/-- Chip-select low, clock low, the mode and data lines given: a rising clock is to come. -/
def sampling (rs data : Option Level) (rxRs : Option Level) : State :=
  { awake with lines := { awake.lines with cs := some false, clk := some false, rs := rs, data := data }
               rxOpen := true, rxRs := rxRs }

/-- RisingClockSamplesUnderChipSelect: the first sample, a later one, each bad one, and a clock that is no sample. -/
theorem witness_RisingClockSamplesUnderChipSelect :
    let first := sampling (some true) (some false) none
    let later := sampling (some true) (some false) (some true)
    let changed := sampling (some true) (some false) (some false)
    (first.lines.clk = some false ∧ first.lines.cs = some false ∧ first.lines.data = some false ∧
      first.lines.rs = some true ∧ first.rxRs = none) ∧
    (later.lines.clk = some false ∧ later.lines.cs = some false ∧ later.rxRs = some true) ∧
    (sampling (some true) none none).lines.data = none ∧ (sampling none (some true) none).lines.rs = none ∧
    (changed.rxRs ≠ none ∧ changed.rxRs ≠ changed.lines.rs) ∧
    ¬(awake.lines.clk = some false ∧ awake.lines.cs = some false) := by decide
/-- ChipSelectRiseClosesTheFrame: eight good bits, none, seven, and eight of a bad frame. -/
theorem witness_ChipSelectRiseClosesTheFrame :
    let empty := { closing with rxBits := [], rxRs := none }
    let short := { closing with rxBits := [true, true, true, true, true, true, true] }
    let bad := { closing with rxBad := true }
    (closing.lines.cs = some false ∧ closing.rxBits.length = 8 ∧ closing.rxBad = false ∧
      closing.rxRs = some false) ∧
    (empty.lines.cs = some false ∧ empty.rxBits = []) ∧
    (short.lines.cs = some false ∧ short.rxBits ≠ [] ∧ short.rxBits.length ≠ 8) ∧
    (bad.lines.cs = some false ∧ bad.rxBits ≠ [] ∧ bad.rxBad = true) := by decide
/-- WriteByteAloneDeliversNothing: chip-select high, and never driven. -/
theorem witness_WriteByteAloneDeliversNothing :
    (sendingByte.cur = some .writeByte ∧ sendingByte.pc = 0 ∧ sendingByte.lines.cs ≠ some false) ∧
    State.reset.lines.cs ≠ some false := by decide
/-- TransportCallDeliversExactlyItsFrame: a command and a data frame. -/
theorem witness_TransportCallDeliversExactlyItsFrame :
    let c := { awake with cur := some .writeCommand, latchA := 0x2C }
    let d := { awake with cur := some .writeData, latchA := 0x55 }
    (c.cur = some (if (⟨false, 0x2C⟩ : Frame).mode then .writeData else .writeCommand) ∧ c.pc = 0 ∧
      lo8 c.latchA = 0x2C ∧ c.lines.cs ≠ some false) ∧
    (d.cur = some (if (⟨true, 0x55⟩ : Frame).mode then .writeData else .writeCommand) ∧ d.pc = 0 ∧
      lo8 d.latchA = 0x55 ∧ d.lines.cs ≠ some false) := by decide
/-- ResetPulseClearsAndReleasesTheTracker: the line high, never driven, and low. -/
theorem witness_ResetPulseClearsAndReleasesTheTracker :
    let held := { State.reset with lines := { State.reset.lines with rst := some false } }
    awake.lines.rst ≠ some false ∧ State.reset.lines.rst ≠ some false ∧
      (held.lines.rst = some false ∧ held.phase = .uninit) := by decide
theorem witness_FramesBeforeTheResetPulseAreUnlisted :
    State.reset.phase = .uninit ∧ Instr.sleepOut.isRequest = false ∧ (Instr.dataPixel 0).isRequest = false := by decide
/-- The eight command statements and UnlistedCommandIsFlagged: a phase other than `Uninit`, listed and not; the last
byte of each command that is owed any. -/
theorem witness_commands :
    asleep.phase ≠ .uninit ∧ awake.phase ≠ .uninit ∧ windowed.phase ≠ .uninit ∧ streaming.phase ≠ .uninit ∧
      Instr.wellFormed (.commandUnlisted 0x28) = true := by decide
theorem witness_last_bytes :
    let c5 := collecting 0xC5 [0xA1] asleep
    let mac := collecting 0x36 [] asleep
    let fmt := collecting 0x3A [] asleep
    (c5.phase ≠ .uninit ∧ c5.cmd = some 0xC5 ∧ c5.need = 1) ∧
    (mac.phase ≠ .uninit ∧ mac.cmd = some 0x36 ∧ mac.need = 1) ∧
    (fmt.phase ≠ .uninit ∧ fmt.cmd = some 0x3A ∧ fmt.need = 1) := by decide
theorem witness_ColumnAddressSetCollectsItsPair :
    let s := collecting 0x2A [0x00, 0x14, 0x00] awake
    s.phase ≠ .uninit ∧ s.cmd = some 0x2A ∧ s.need = 1 ∧ s.acc = [0x00, 0x14, 0x00] := by decide
/-- PageAddressSetSetsTheWindow: with the columns, without them, and in another phase. -/
theorem witness_PageAddressSetSetsTheWindow :
    let s := collecting 0x2B [0x00, 0x0A, 0x00] { awake with caDone := some (0x14, 0x15) }
    let without := collecting 0x2B [0x00, 0x0A, 0x00] awake
    let sleeping := collecting 0x2B [0x00, 0x0A, 0x00] { asleep with caDone := some (0x14, 0x15) }
    (s.phase ≠ .uninit ∧ s.cmd = some 0x2B ∧ s.need = 1 ∧ s.acc = [0x00, 0x0A, 0x00] ∧
      s.caDone = some (0x14, 0x15) ∧ s.phase = .awakeIdle) ∧
    (without.cmd = some 0x2B ∧ without.need = 1 ∧ without.caDone = none) ∧
    (sleeping.cmd = some 0x2B ∧ sleeping.need = 1 ∧ sleeping.phase ≠ .uninit ∧ sleeping.phase ≠ .awakeIdle) := by
  decide
/-- MemoryWriteOpensTheStream: after the common part, each of the three phases. -/
theorem witness_MemoryWriteOpensTheStream :
    (windowed.phase ≠ .uninit ∧ (commandCommon 0x2C windowed).phase = .windowed) ∧
    (streaming.phase ≠ .uninit ∧ (commandCommon 0x2C streaming).phase = .awakeIdle) ∧
    (asleep.phase ≠ .uninit ∧ (commandCommon 0x2C asleep).phase = .sleeping) := by decide
theorem witness_ParameterByteIsCollected :
    let s := { awake with cmd := some 0x2A, need := 2, acc := [0, 0x14] }
    s.phase ≠ .uninit ∧ 1 < s.need := by decide
/-- PixelBytesPairUpHighByteFirst and PixelStoreChangesOnlyWhatGramStoreNames. -/
theorem witness_pixels :
    (streaming.phase = .writing ∧ streaming.need = 0 ∧ streaming.half = none) ∧
    (let s := { streaming with half := some 0xF8 }
     s.phase = .writing ∧ s.need = 0 ∧ s.half = some 0xF8 ∧ ∃ t, exec (.dataPixel 0) s = .next t) :=
  ⟨⟨rfl, rfl, rfl⟩, rfl, rfl, rfl, _, rfl⟩
theorem witness_StrayDataIsFlagged :
    (asleep.need = 0 ∧ asleep.phase = .sleeping) ∧ (awake.need = 0 ∧ awake.phase = .awakeIdle) ∧
      (windowed.need = 0 ∧ windowed.phase = .windowed) := by decide
/-- FramesChangeOnlyTheTracker: a command, and a data byte of each clause. -/
theorem witness_FramesChangeOnlyTheTracker :
    Instr.sleepOut.isRequest = false ∧ (∃ t, exec .sleepOut asleep = .next t) ∧ Instr.sleepOut.dataKind = none ∧
      (Instr.dataPixel 0).isRequest = false ∧ (∃ t, exec (.dataPixel 0) streaming = .next t) ∧
      streaming.half = none ∧ asleep.phase ≠ .writing ∧ (collecting 0x36 [] asleep).need ≠ 0 :=
  ⟨rfl, ⟨_, rfl⟩, rfl, rfl, ⟨_, rfl⟩, rfl, nofun, nofun⟩
/-- BlockNeverDependsOnTheTracker: two states that differ in the tracker. -/
theorem witness_BlockNeverDependsOnTheTracker :
    let s := { sendingByte with phase := .writing, viol := ⟨true, true, true, true, true, true, true, true, true⟩ }
    s.block = sendingByte.block ∧ s ≠ sendingByte := by decide
/-- MarksAreNeverCleared and TracesOnlyGrow: a step of a marked state. -/
theorem witness_marked_step :
    let s := { closing with refused := true }
    s.refused = true ∧ s.inited = true ∧ ∃ t, step s = .next t := ⟨rfl, rfl, _, rfl⟩
theorem witness_SequencedStepNeverFaults : closing.sequenced := by
  change closing.pc < (closing.expansion .writeCommand).length
  decide
theorem witness_StepKeepsTheTrackerConsistent : closing.TrackerOk ∧ ∃ t, step closing = .next t :=
  ⟨⟨nofun, nofun, fun _ => rfl, nofun, by decide, nofun, nofun, nofun, nofun⟩, _, rfl⟩
theorem witness_StepKeepsTheReceiverConsistent : closing.ReceiverOk ∧ ∃ t, step closing = .next t :=
  ⟨⟨by decide, by decide⟩, _, rfl⟩
theorem witness_StepKeepsGramCanonical :
    let s := { closing with gram := [(0, 0xF800), (65536, 0x001F)] }
    s.gramOk ∧ ∃ t, step s = .next t := ⟨by change Memory.wf _; decide, _, rfl⟩

/-- The machine after `Set(CS,0)`, the first micro-operation of a `writeData`. -/
def selected : State := { (lineWrite .cs false State.reset).1 with cur := some .writeData, pc := 1 }

theorem witness_FrameTraceIsReadFromTheLineTrace :
    selected.receivedFromTrace ∧ selected.lt = [.set .cs false] ∧ ∃ t, step selected = .next t :=
  ⟨⟨0, rfl⟩, rfl, _, rfl⟩

/-- Reports that reach every wait of the build. -/
def longReports : List Nat :=
  List.replicate 5 (build.tStab + build.tPre + build.tRstLow + build.tRstPost + build.tSlpOut)

theorem longReports_enough : enoughReports longReports := by
  refine ⟨Nat.le_refl 5, fun r hr => ?_⟩
  rw [List.eq_of_mem_replicate hr]
  omega

/-- AcceptedOperationRunsItsWholeExpansion: one that waits and one that does not. -/
theorem witness_AcceptedOperationRunsItsWholeExpansion :
    let s := { State.reset with cur := some .initDisplay, delays := longReports }
    (s.cur = some .initDisplay ∧ s.pc = 0 ∧ enoughReports s.delays) ∧
    (sendingByte.cur = some .writeByte ∧ sendingByte.pc = 0 ∧ Operation.writeByte ≠ .initDisplay) :=
  ⟨⟨rfl, rfl, longReports_enough⟩, rfl, rfl, nofun⟩
/-- SetAddressWindowOpensItsWindow: from `AwakeIdle` and from `Writing`. -/
theorem witness_SetAddressWindowOpensItsWindow :
    let s := { awake with cur := some .setAddressWindow, latchB := 239, latchD := 319 }
    let u := { streaming with cur := some .setAddressWindow }
    (s.cur = some .setAddressWindow ∧ s.pc = 0 ∧ s.lines.cs ≠ some false ∧ s.phase = .awakeIdle ∧ s.need = 0 ∧
      s.half = none ∧ s.fmt16 = true) ∧
    (u.cur = some .setAddressWindow ∧ u.pc = 0 ∧ u.lines.cs ≠ some false ∧ u.phase = .writing ∧ u.need = 0 ∧
      u.half = none ∧ u.fmt16 = true) := by decide
theorem witness_DrawPixelWritesOnePixel :
    let s := { awake with cur := some .drawPixel, latchA := 10, latchB := 20, latchC := 0xF800 }
    let u := { streaming with cur := some .drawPixel, latchA := 0xFFFF, latchB := 0xFFFF }
    (s.cur = some .drawPixel ∧ s.pc = 0 ∧ s.lines.cs ≠ some false ∧ s.phase = .awakeIdle ∧ s.need = 0 ∧
      s.half = none ∧ s.fmt16 = true) ∧
    (u.cur = some .drawPixel ∧ u.pc = 0 ∧ u.lines.cs ≠ some false ∧ u.phase = .writing ∧ u.need = 0 ∧
      u.half = none ∧ u.fmt16 = true) := by decide
theorem witness_InitializeWakesTheController :
    let s := { State.reset with cur := some .initDisplay, delays := longReports }
    s.cur = some .initDisplay ∧ s.pc = 0 ∧ s.lines.cs ≠ some false ∧ s.lines.rst ≠ some false ∧
      enoughReports s.delays := ⟨rfl, rfl, nofun, nofun, longReports_enough⟩

end Sys2Proof.Machine.Tests
end

section
/-! PROOFS. The index tables of the byte body and the frame (30_encoding.md R72, R73): the cell at an index of a list
of cells, the bit at an index of a byte's bits, and where the byte body lies in the frame. -/

namespace Sys2Proof.Machine

/-- The cell of the `j`-th level stands at `3j` in a list of cells (R71). -/
theorem flatMap_cell_at {vs : List Level} {j : Nat} {v : Level} (h : vs[j]? = some v) :
    (vs.flatMap cell)[3 * j]? = some (.set .clk false) ∧
    (vs.flatMap cell)[3 * j + 1]? = some (.set .data v) ∧
    (vs.flatMap cell)[3 * j + 2]? = some (.set .clk true) := by
  induction vs generalizing j with
  | nil => simp at h
  | cons w vs ih =>
    cases j with
    | zero =>
      obtain rfl : w = v := by simpa using h
      exact ⟨rfl, rfl, rfl⟩
    | succ j => exact ih (by simpa using h)

/-- The bit sent `j`-th is bit `7 - j` (R51). -/
theorem msbFirst_getElem? (b : Byte) {j : Nat} (hj : j < 8) : (msbFirst b)[j]? = some (b.getLsbD (7 - j)) :=
  match j, hj with
  | 0, _ | 1, _ | 2, _ | 3, _ | 4, _ | 5, _ | 6, _ | 7, _ => rfl

theorem byteBody_cell_at (b : Byte) {j : Nat} (hj : j < 8) :
    (byteBody b)[3 * j]? = some (.set .clk false) ∧
    (byteBody b)[3 * j + 1]? = some (.set .data (b.getLsbD (7 - j))) ∧
    (byteBody b)[3 * j + 2]? = some (.set .clk true) :=
  flatMap_cell_at (msbFirst_getElem? b hj)

/-- The byte body stands in the frame behind chip-select and the mode (R73). -/
theorem frameOps_getElem?_body (f : Frame) {i : Nat} (hi : i < 24) :
    (frameOps f)[2 + i]? = (byteBody f.byte)[i]? := by
  have hb : i < (byteBody f.byte).length := by simpa using hi
  simp [frameOps, Nat.add_comm 2 i, List.getElem?_append_left hb]

/-- Settles O8: the byte body is a list of cells, one for each bit from the most significant on. -/
theorem byteBodyIsEightCellsMostSignificantFirst : Obligations.ByteBodyIsEightCellsMostSignificantFirst :=
  fun b => ⟨byteBody_length b, fun _ hj => byteBody_cell_at b hj⟩

/-- Settles O9: the writes of chip-select and the mode are read off the frame's ends, and the table of the byte body
is moved up by the two writes before it. -/
theorem frameFollowsItsIndexTable : Obligations.FrameFollowsItsIndexTable := by
  refine ⟨fun b => ⟨rfl, rfl⟩, fun f => ⟨frameOps_length f, rfl, rfl, rfl, fun j hj => ?_⟩⟩
  obtain ⟨hfall, hdata, hrise⟩ := byteBody_cell_at f.byte hj
  refine ⟨?_, ?_, ?_⟩
  · rw [frameOps_getElem?_body f (by omega), hfall]
  · rw [show 3 + 3 * j = 2 + (3 * j + 1) by omega, frameOps_getElem?_body f (by omega), hdata]
  · rw [show 4 + 3 * j = 2 + (3 * j + 2) by omega, frameOps_getElem?_body f (by omega), hrise]

end Sys2Proof.Machine
end

section
/-! PROOFS. The command rules that expect no data bytes, and the stray data byte (42_controller_commands.md R146, R147,
R150, R153, R154): outside `Uninit` a command frame is its own rule after the common part, so each statement comes down
to the branches of one rule. -/

namespace Sys2Proof.Machine

/-- R142: outside `Uninit` a command frame is the common part and then the opcode's own rule. -/
theorem takeCommand_of_ne_uninit (o : Byte) (act : State → State) {s : State} (hs : s.phase ≠ .uninit) :
    takeCommand o act s = act (commandCommon o s) := if_neg hs

/-- The phases that the common part of a memory-write leaves (R142): an open stream has ended. -/
theorem commandCommon_memoryWrite_phase {s : State} (hs : s.phase ≠ .uninit) :
    (commandCommon 0x2C s).phase = .windowed ∨ (commandCommon 0x2C s).phase = .awakeIdle ∨
      (commandCommon 0x2C s).phase = .sleeping := by
  rw [commandCommon_phase]
  cases hp : s.phase with
  | uninit => exact absurd hp hs
  | sleeping | awakeIdle | windowed | writing => simp

theorem memoryWriteRule_windowed {c : State} (hc : c.phase = .windowed) :
    memoryWriteRule c =
      { c with cmd := none, need := 0, phase := .writing, npix := 0, half := none,
               viol := if c.fmt16 then c.viol else c.viol.add .fmt } := by
  cases hf : c.fmt16 <;> simp [memoryWriteRule, hc, hf, State.flagIf_eq, oweNothing]

theorem memoryWriteRule_awakeIdle {c : State} (hc : c.phase = .awakeIdle) : memoryWriteRule c = oweNothing c := by
  simp only [memoryWriteRule, hc]

theorem memoryWriteRule_sleeping {c : State} (hc : c.phase = .sleeping) :
    memoryWriteRule c = (oweNothing c).flag .unlisted := by
  simp only [memoryWriteRule, hc]

/-- A data byte with nothing owed and no stream open has nothing to receive it (R153). -/
theorem takeData_eq_takeStray (b : Byte) {s : State} (hu : s.phase ≠ .uninit) (hn : s.need = 0)
    (hw : s.phase ≠ .writing) : takeData b s = takeStray s := by
  simp [takeData, hu, hn, hw]

/-- Settles O41: after the common part the phase is one of three, and each is a branch of memory-write's own rule. -/
theorem memoryWriteOpensTheStream : Obligations.MemoryWriteOpensTheStream := by
  intro s hs c
  have hexec : exec .memoryWrite s = .next (memoryWriteRule c) :=
    congrArg Host.Outcome.next (takeCommand_of_ne_uninit 0x2C memoryWriteRule hs)
  refine ⟨fun hc => ?_, fun hc => ?_, fun hc => ?_, commandCommon_memoryWrite_phase hs⟩
  · rw [hexec, memoryWriteRule_windowed hc]
  · rw [hexec, memoryWriteRule_awakeIdle hc]
    rfl
  · rw [hexec, memoryWriteRule_sleeping hc]
    rfl

/-- Settles O37: the statement's two branches are those of `sleepOutRule`. -/
theorem sleepOutIsListedWhileSleeping : Obligations.SleepOutIsListedWhileSleeping :=
  fun _ hs => congrArg Host.Outcome.next (takeCommand_of_ne_uninit 0x11 sleepOutRule hs)

/-- Settles O38: the statement's two branches are those of `displayOnRule`. -/
theorem displayOnWakesAfterSleepOut : Obligations.DisplayOnWakesAfterSleepOut :=
  fun _ hs => congrArg Host.Outcome.next (takeCommand_of_ne_uninit 0x29 displayOnRule hs)

/-- Settles O45: in each of the three phases the byte is neither a parameter nor a pixel. -/
theorem strayDataIsFlagged : Obligations.StrayDataIsFlagged := by
  intro s b hn hp
  have hu : s.phase ≠ .uninit := by rcases hp with h | h | h <;> simp [h]
  have hw : s.phase ≠ .writing := by rcases hp with h | h | h <;> simp [h]
  exact congrArg Host.Outcome.next (takeData_eq_takeStray b hu hn hw)

/-- Settles O46: an unlisted opcode's own rule has the one branch. -/
theorem unlistedCommandIsFlagged : Obligations.UnlistedCommandIsFlagged :=
  fun _ o hs _ => congrArg Host.Outcome.next
    (takeCommand_of_ne_uninit o (fun u => (oweNothing u).flag .unlisted) hs)

end Sys2Proof.Machine
end

section
/-! PROOFS. The two word formats (30_encoding.md R74 to R82). -/
namespace Sys2Proof

theorem packRequest_req (w : RequestWord) : packRequest (reqOp w) (reqA w) (reqB w) (reqC w) (reqD w) = w := by
  have join (i j n m : Nat) (h : j = i + n) : w.extractLsb' j m ++ w.extractLsb' i n = w.extractLsb' i (m + n) :=
    BitVec.extractLsb'_append_extractLsb'_eq_extractLsb' h
  unfold packRequest reqOp reqA reqB reqC reqD
  rw [join 48 64 16 3 rfl, join 32 48 16 _ rfl, join 16 32 16 _ rfl, join 0 16 16 _ rfl]
  exact BitVec.extractLsb'_eq_self

theorem extractLsb'_append_half {n k len : Nat} (x : BitVec n) (y : Half) :
    (x ++ y).extractLsb' (16 + k) len = x.extractLsb' k len := by
  rw [BitVec.extractLsb'_append_eq_of_le (Nat.le_add_right 16 k), Nat.add_sub_cancel_left]

section
variable (op : BitVec 3) (a b c d : Half)

@[simp] theorem reqD_packRequest : reqD (packRequest op a b c d) = d := BitVec.extractLsb'_append_eq_right

@[simp] theorem reqC_packRequest : reqC (packRequest op a b c d) = c :=
  (extractLsb'_append_half (k := 0) _ _).trans BitVec.extractLsb'_append_eq_right

@[simp] theorem reqB_packRequest : reqB (packRequest op a b c d) = b :=
  (extractLsb'_append_half (k := 16) _ _).trans <|
    (extractLsb'_append_half (k := 0) _ _).trans BitVec.extractLsb'_append_eq_right

@[simp] theorem reqA_packRequest : reqA (packRequest op a b c d) = a :=
  (extractLsb'_append_half (k := 32) _ _).trans <| (extractLsb'_append_half (k := 16) _ _).trans <|
    (extractLsb'_append_half (k := 0) _ _).trans BitVec.extractLsb'_append_eq_right

@[simp] theorem reqOp_packRequest : reqOp (packRequest op a b c d) = op :=
  (extractLsb'_append_half (k := 48) _ _).trans <| (extractLsb'_append_half (k := 32) _ _).trans <|
    (extractLsb'_append_half (k := 16) _ _).trans BitVec.extractLsb'_append_eq_left

end

theorem frameOfSymbol_symbol : ∀ f : Frame, frameOfSymbol f.symbol = f := by
  rintro ⟨m, b⟩
  revert m b
  decide

theorem symbol_frameOfSymbol : ∀ w : SymbolWord, (frameOfSymbol w).symbol = w := by decide

/-- R80: the test of `a[15:8]` is the bound of a `uint8`. -/
theorem operandHigh_eq_zero_iff (a : Half) : a.extractLsb' 8 8 = (0 : Byte) ↔ a.toNat < 256 := by
  have := a.isLt
  rw [← BitVec.toNat_inj, BitVec.extractLsb'_toNat, Nat.shiftRight_eq_div_pow]
  change _ = 0 ↔ _
  omega

theorem decodeByteRequest_byte (op : BitVec 3) (v : Byte) (i : Byte → Instr) :
    decodeByteRequest op (v.setWidth 16) i = .ok (i v) := by
  have hhi : (v.setWidth 16).extractLsb' 8 8 = (0 : Byte) := by
    rw [operandHigh_eq_zero_iff, BitVec.toNat_setWidth_of_le (by decide)]
    exact v.isLt
  rw [decodeByteRequest, if_pos hhi, BitVec.setWidth_setWidth_of_le _ (by decide), BitVec.setWidth_eq]

theorem decodeByteRequest_rejected_iff (op : BitVec 3) (a : Half) (i : Byte → Instr) :
    (∃ e, decodeByteRequest op a i = .rejected e) ↔ 256 ≤ a.toNat := by
  rw [← not_lt, ← operandHigh_eq_zero_iff, decodeByteRequest]
  split
  case isTrue h => exact iff_of_false nofun (not_not_intro h)
  case isFalse h => exact iff_of_true ⟨_, rfl⟩ h

theorem decodeByteRequest_ok {op : BitVec 3} {a : Half} {i : Byte → Instr} {j : Instr}
    (h : decodeByteRequest op a i = .ok j) : ∃ v : Byte, a = v.setWidth 16 ∧ j = i v := by
  unfold decodeByteRequest at h
  split at h
  · rename_i hhi
    cases h
    refine ⟨a.setWidth 8, BitVec.eq_of_toNat_eq ?_, rfl⟩
    have ha := (operandHigh_eq_zero_iff a).1 hhi
    rw [BitVec.toNat_setWidth, BitVec.toNat_setWidth]
    omega
  · cases h

theorem exists_packRequest (w : RequestWord) : ∃ op a b c d, w = packRequest op a b c d :=
  ⟨_, _, _, _, _, (packRequest_req w).symm⟩

/-- The request decoder on the packed word, field by field (R78, R79). -/
theorem decodeRequest_packRequest (op : BitVec 3) (a b c d : Half) :
    decodeRequest (packRequest op a b c d) =
      if op = 0 then decodeByteRequest op a (.writeByte · b c d)
      else if op = 1 then decodeByteRequest op a (.writeCommand · b c d)
      else if op = 2 then decodeByteRequest op a (.writeData · b c d)
      else if op = 3 then .ok (.initDisplay a b c d)
      else if op = 4 then .ok (.setAddressWindow a b c d)
      else if op = 5 then .ok (.drawPixel a b c d)
      else .ok (.reservedReq op a b c d) := by
  simp [decodeRequest]

theorem decodeCommand_unlisted {o : Byte} (h : listedOpcodes.contains o = false) :
    decodeCommand o = .commandUnlisted o := by
  have hne : o ≠ 0xC5 ∧ o ≠ 0x36 ∧ o ≠ 0x3A ∧ o ≠ 0x11 ∧ o ≠ 0x29 ∧ o ≠ 0x2A ∧ o ≠ 0x2B ∧ o ≠ 0x2C := by
    simpa [listedOpcodes] using h
  simp only [decodeCommand, hne, if_false]

/-- Settles O3: a request's fields come out of its packed word, a frame comes out of its symbol, and the eight listed
opcodes are those of R76. -/
theorem decodeOfEncodeIsTheInstruction : Obligations.DecodeOfEncodeIsTheInstruction := by
  intro k i hi hk
  cases i with
  | writeByte v | writeCommand v | writeData v =>
    simp [encode, decode, decodeRequest_packRequest, decodeByteRequest_byte]
  | initDisplay | setAddressWindow | drawPixel => simp [encode, decode, decodeRequest_packRequest]
  | reservedReq op =>
    obtain rfl | rfl : op = 6 ∨ op = 7 := by simpa [Instr.wellFormed] using hi
    all_goals simp [encode, decode, decodeRequest_packRequest]
  | vcomControl | memoryAccessControl | pixelFormatSet | sleepOut | displayOn | columnAddressSet | pageAddressSet
  | memoryWrite => rfl
  | dataParameter b | dataPixel b | dataStray b =>
    obtain rfl : _ = k := by simpa [Instr.dataKind] using hk
    simp [encode, decode, decodeSymbol, decodeData, frameOfSymbol_symbol]
  | commandUnlisted o =>
    have ho : listedOpcodes.contains o = false := by simpa [Instr.wellFormed] using hi
    simp [encode, decode, decodeSymbol, frameOfSymbol_symbol, decodeCommand_unlisted ho]

theorem operationCode_cases : ∀ op : BitVec 3,
    op = 0 ∨ op = 1 ∨ op = 2 ∨ op = 3 ∨ op = 4 ∨ op = 5 ∨ (op == 6 || op == 7) = true := by
  decide

theorem decodeRequest_ok {w : RequestWord} {i : Instr} (h : decodeRequest w = .ok i) :
    encode i = .request w ∧ i.wellFormed = true := by
  obtain ⟨op, a, b, c, d, rfl⟩ := exists_packRequest w
  rw [decodeRequest_packRequest] at h
  split_ifs at h
  iterate 3
    · subst op
      obtain ⟨v, rfl, rfl⟩ := decodeByteRequest_ok h
      exact ⟨rfl, rfl⟩
  iterate 3
    · subst op
      cases h
      exact ⟨rfl, rfl⟩
  · cases h
    have := operationCode_cases op
    exact ⟨rfl, show (op == 6 || op == 7) = true by tauto⟩

theorem encode_decodeCommand (o : Byte) :
    encode (decodeCommand o) = .symbol (Frame.symbol ⟨false, o⟩) ∧ (decodeCommand o).wellFormed = true := by
  unfold decodeCommand
  split_ifs
  iterate 8
    · subst o
      exact ⟨rfl, rfl⟩
  · refine ⟨rfl, ?_⟩
    simp_all [Instr.wellFormed, listedOpcodes]

theorem encode_decodeData (k : DataKind) (b : Byte) :
    encode (decodeData k b) = .symbol (Frame.symbol ⟨true, b⟩) ∧ (decodeData k b).wellFormed = true := by
  cases k <;> exact ⟨rfl, rfl⟩

theorem encode_decodeSymbol (k : DataKind) (w : SymbolWord) :
    encode (decodeSymbol k w) = .symbol w ∧ (decodeSymbol k w).wellFormed = true := by
  rw [← symbol_frameOfSymbol w, decodeSymbol, frameOfSymbol_symbol]
  obtain ⟨m, b⟩ := frameOfSymbol w
  cases m with
  | false => exact encode_decodeCommand b
  | true => exact encode_decodeData k b

/-- Settles O4: a request is its five fields packed again, a symbol its frame. -/
theorem encodeOfDecodeIsTheWord : Obligations.EncodeOfDecodeIsTheWord := by
  intro k w i h
  cases w with
  | request w => exact decodeRequest_ok h
  | symbol w =>
    obtain rfl : decodeSymbol k w = i := by simpa [decode] using h
    exact encode_decodeSymbol k w

/-- Settles O5: only the three byte requests can be rejected, and they are where `a` is no `uint8`. -/
theorem onlyIllFormedRequestsAreRejected : Obligations.OnlyIllFormedRequestsAreRejected := by
  intro w
  obtain ⟨op, a, b, c, d, rfl⟩ := exists_packRequest w
  rw [decodeRequest_packRequest, reqOp_packRequest, reqA_packRequest]
  have hop : op.toNat < 3 ↔ op = 0 ∨ op = 1 ∨ op = 2 := by revert op; decide
  rw [hop]
  split_ifs
  iterate 3
    · rw [decodeByteRequest_rejected_iff]
      tauto
  all_goals exact iff_of_false nofun (fun h => by tauto)
end Sys2Proof
end

section
/-! PROOFS. The build and the expansions: their sizes, the steps of the initialisation, and the composed operations as
concatenations (00_scope.md R9, R15; 30_encoding.md R77, R83, R85; 41_protocol.md R120 to R133). -/

namespace Sys2Proof.Machine

/-- Settles O2: each wait is its minimum and an open number more, and `pickOrder` answers a permutation. -/
theorem buildMeetsTheMinima : Obligations.BuildMeetsTheMinima :=
  ⟨Nat.le_add_right .., Nat.le_add_right .., Nat.le_add_right .., Nat.le_add_right .., pickOrder_perm ..⟩

/-- Settles O6: the decoder computes each row's instruction from the word written out. -/
theorem wordsOfTheVectorsDecode : Obligations.WordsOfTheVectorsDecode := by
  refine ⟨?_, ?_, ?_, ?_, ?_, ?_, ?_, ?_, ?_, ?_, ?_⟩ <;> decide

theorem hi8_toNat (v : Half) : (hi8 v).toNat = v.toNat / 256 := by
  have := v.isLt
  rw [hi8, BitVec.extractLsb'_toNat, Nat.shiftRight_eq_div_pow]
  omega

theorem lo8_toNat (v : Half) : (lo8 v).toNat = v.toNat % 256 := by
  rw [lo8, BitVec.extractLsb'_toNat, Nat.shiftRight_zero]

/-- Settles O7: the two bytes are the base-256 digits, and the increment is the addition of `Half`. -/
theorem operandAssemblySplitsAndIncrements : Obligations.OperandAssemblySplitsAndIncrements :=
  ⟨fun v => ⟨hi8_toNat v, lo8_toNat v⟩, fun h l => ⟨hi8_pair h l, lo8_pair h l⟩, fun v => BitVec.toNat_add v 1⟩

/-! Waits: a frame has none. -/

@[simp] theorem waits_byteBody (b : Byte) : (byteBody b).filter MicroOp.isWait = [] := rfl

@[simp] theorem waits_commandOps (o : Byte) : (commandOps o).filter MicroOp.isWait = [] := rfl

@[simp] theorem waits_dataOps (b : Byte) : (dataOps b).filter MicroOp.isWait = [] := rfl

@[simp] theorem waits_setAddressWindowOps (rs re cs ce : Half) :
    (setAddressWindowOps rs re cs ce).filter MicroOp.isWait = [] := by
  simp [setAddressWindowOps, halfOps]

@[simp] theorem waits_drawPixelOps (x y c : Half) : (drawPixelOps x y c).filter MicroOp.isWait = [] := by
  simp [drawPixelOps, halfOps]

/-- The waits of the initialisation in order (R121, R122, R126). -/
theorem waits_initDisplayOps (p : Config.Params) :
    (initDisplayOps p).filter MicroOp.isWait =
      [.wait p.tStab, .wait p.tPre, .wait p.tRstLow, .wait p.tRstPost, .wait p.tSlpOut] := by
  have hidle : (p.lineOrder.map (MicroOp.set · true)).filter MicroOp.isWait = [] := by simp [MicroOp.isWait]
  have heager : (initEager p).filter MicroOp.isWait = [] := by unfold initEager; split <;> simp
  simp [initDisplayOps, initIdleLevels, initResetPulse, initVcom, initMemoryAccess, initPixelFormat, initSleepOut,
    initDisplayOn, List.filter_cons, hidle, heager, MicroOp.isWait]

theorem lineOrder_length {p : Config.Params} (hp : p.legal) : p.lineOrder.length = 6 := hp.2.2.2.2.length_eq

/-- Settles O10: a frame is 27 line writes; only the initialisation waits. -/
theorem expansionsHaveTheirSizes : Obligations.ExpansionsHaveTheirSizes := by
  intro p a b c d hp waits total
  refine ⟨⟨byteBody_length _, rfl⟩, ⟨commandOps_length _, rfl⟩, ⟨dataOps_length _, rfl⟩,
    ⟨setAddressWindowOps_length a b c d, ?_⟩, ⟨drawPixelOps_length a b c, ?_⟩, ?_, ?_⟩
  · exact congrArg List.length (waits_setAddressWindowOps a b c d)
  · exact congrArg List.length (waits_drawPixelOps a b c)
  · refine (initDisplayOps_length p).trans ?_
    rw [lineOrder_length hp]
    split <;> rfl
  · exact congrArg List.length (waits_initDisplayOps p)

/-- The initialisation: steps 1 and 2 (R121, R122), then its frames and the sleep-out wait (R123 to R128). -/
theorem initDisplayOps_eq (p : Config.Params) :
    initDisplayOps p = (p.lineOrder.map (MicroOp.set · true) ++
        [.wait p.tStab, .set .rst true, .wait p.tPre, .set .rst false, .wait p.tRstLow, .set .rst true,
          .wait p.tRstPost]) ++
      (([⟨false, 0xC5⟩, ⟨true, p.vcomH⟩, ⟨true, p.vcomL⟩, ⟨false, 0x36⟩, ⟨true, p.madctl⟩, ⟨false, 0x3A⟩, ⟨true, 0x55⟩,
          ⟨false, 0x11⟩] : List Frame).flatMap frameOps ++
        [.wait p.tSlpOut] ++ frameOps ⟨false, 0x29⟩ ++ (if p.eagerRamwr then frameOps ⟨false, 0x2C⟩ else [])) := by
  simp [initDisplayOps, initIdleLevels, initResetPulse, initVcom, initMemoryAccess, initPixelFormat, initSleepOut,
    initDisplayOn, initEager, commandOps, dataOps]

/-- Settles O11: the initialisation is thirteen micro-operations and then its frames. -/
theorem initializeFollowsItsSteps : Obligations.InitializeFollowsItsSteps := by
  intro p hp
  have hlen := lineOrder_length hp
  rw [initDisplayOps_eq]
  refine ⟨List.take_left' ?_, fun n => ?_, List.drop_left' ?_⟩
  · simp [hlen]
  · have hn : n ∈ p.lineOrder := hp.2.2.2.2.mem_iff.2 (by cases n <;> decide)
    obtain ⟨i, hi, rfl⟩ := List.getElem_of_mem hn
    refine ⟨i, hlen ▸ hi, ?_⟩
    simp [List.getElem?_append_left, hi]
  · simp [hlen]

/-- Settles O12: the latch's low byte is the operand, and each operation is written as its calls. -/
theorem composedOperationsEqualTheirExpansions : Obligations.ComposedOperationsEqualTheirExpansions := by
  intro p a b c d z cmd dat body
  have hcmd (o : Byte) : cmd o = commandOps o := congrArg commandOps (lo8_setWidth o)
  have hdat (v : Byte) : dat v = dataOps v := congrArg dataOps (lo8_setWidth v)
  have hbody (v : Byte) : body v = byteBody v := congrArg byteBody (lo8_setWidth v)
  refine ⟨fun o => ?_, fun v => ?_, ?_, ?_⟩
  · rw [hcmd, hbody]
    rfl
  · rw [hdat, hbody]
    rfl
  · simp only [hcmd, hdat, expansion, setAddressWindowOps, halfOps, List.append_assoc]
  · simp only [hdat, expansion, drawPixelOps, halfOps, List.append_assoc]

end Sys2Proof.Machine
end

section
/-! PROOFS. The tracker's answer to a closed frame as one function of the state (42_controller_commands.md R140 to
R154), and that it neither reads nor writes anything but the tracker, the violation set and GRAM. -/

namespace Sys2Proof.Machine

/-- The rule of an opcode that comes after the common part: the eight of R76, then R154. -/
def commandRule (o : Byte) : State → State :=
  if o = 0xC5 then fun s => listedIn .sleeping (owe 0xC5 2 s)
  else if o = 0x36 then fun s => listedIn .sleeping (owe 0x36 1 s)
  else if o = 0x3A then fun s => listedIn .sleeping (owe 0x3A 1 s)
  else if o = 0x11 then sleepOutRule
  else if o = 0x29 then displayOnRule
  else if o = 0x2A then fun s => listedIn .awakeIdle (owe 0x2A 4 s)
  else if o = 0x2B then pageAddressRule
  else if o = 0x2C then memoryWriteRule
  else fun s => (oweNothing s).flag .unlisted

/-- The tracker's answer to a closed frame. -/
def takeFrame (f : Frame) (s : State) : State :=
  if f.mode then takeData f.byte s else takeCommand f.byte (commandRule f.byte) s

theorem exec_decodeCommand (o : Byte) (s : State) :
    exec (decodeCommand o) s = .next (takeCommand o (commandRule o) s) := by
  unfold decodeCommand commandRule
  split_ifs
  iterate 8
    · subst o
      rfl
  · rfl

theorem exec_decodeData (k : DataKind) (b : Byte) (s : State) : exec (decodeData k b) s = .next (takeData b s) := by
  cases k <;> rfl

/-- A closed frame's instruction is run by `takeFrame`, whichever data row it is called. -/
theorem exec_decodeSymbol (k : DataKind) (f : Frame) (s : State) :
    exec (decodeSymbol k f.symbol) s = .next (takeFrame f s) := by
  obtain ⟨m, b⟩ := f
  rw [decodeSymbol, frameOfSymbol_symbol]
  cases m with
  | false => exact exec_decodeCommand b s
  | true => exact exec_decodeData k b s

/-- Every frame instruction is a data frame or a command frame with one of the rules. -/
theorem exec_frame_eq {i : Instr} (hi : i.isRequest = false) (s : State) :
    (i.dataKind ≠ none ∧ ∃ b, exec i s = .next (takeData b s)) ∨
    (i.dataKind = none ∧ ∃ o r, exec i s = .next (takeCommand o (commandRule r) s)) := by
  cases i with
  | dataParameter b | dataPixel b | dataStray b => exact .inl ⟨nofun, b, rfl⟩
  | vcomControl => exact .inr ⟨rfl, 0xC5, 0xC5, rfl⟩
  | memoryAccessControl => exact .inr ⟨rfl, 0x36, 0x36, rfl⟩
  | pixelFormatSet => exact .inr ⟨rfl, 0x3A, 0x3A, rfl⟩
  | sleepOut => exact .inr ⟨rfl, 0x11, 0x11, rfl⟩
  | displayOn => exact .inr ⟨rfl, 0x29, 0x29, rfl⟩
  | columnAddressSet => exact .inr ⟨rfl, 0x2A, 0x2A, rfl⟩
  | pageAddressSet => exact .inr ⟨rfl, 0x2B, 0x2B, rfl⟩
  | memoryWrite => exact .inr ⟨rfl, 0x2C, 0x2C, rfl⟩
  | commandUnlisted o => exact .inr ⟨rfl, o, 0, rfl⟩
  | _ => cases hi

/-! Grafting -/

/-- The tracker, the violation set and GRAM of `s`, in a state that is otherwise `u`. -/
def State.graft (s u : State) : State :=
  { u with
    phase := s.phase, win := s.win, cmd := s.cmd, need := s.need, acc := s.acc, caDone := s.caDone, slpout := s.slpout
    fmt16 := s.fmt16, half := s.half, npix := s.npix, mac := s.mac, viol := s.viol, gram := s.gram
    gramCalls := s.gramCalls }

theorem State.graft_self (s : State) : s.graft s = s := rfl

/-- A function of the state that reads and writes nothing but what `graft` takes over. -/
def TrackerFn (f : State → State) : Prop := ∀ s u, f (s.graft u) = (f s).graft u

theorem TrackerFn.comp {f g : State → State} (hf : TrackerFn f) (hg : TrackerFn g) : TrackerFn (fun s => f (g s)) :=
  fun s u => (congrArg f (hg s u)).trans (hf (g s) u)

theorem TrackerFn.ite {p : State → Prop} [DecidablePred p] {f g : State → State} (hp : ∀ s u, p (State.graft s u) ↔ p s)
    (hf : TrackerFn f) (hg : TrackerFn g) : TrackerFn (fun s => if p s then f s else g s) := by
  intro s u
  by_cases h : p s
  · simp only [hp, h, if_true, hf s u]
  · simp only [hp, h, if_false, hg s u]

theorem trackerFn_id : TrackerFn fun s => s := fun _ _ => rfl

theorem trackerFn_flag (c : Violation) : TrackerFn fun s => s.flag c := fun _ _ => rfl

theorem trackerFn_owe (o : Byte) (n : Nat) : TrackerFn (owe o n) := fun _ _ => rfl

theorem trackerFn_oweNothing : TrackerFn oweNothing := fun _ _ => rfl

theorem trackerFn_listedIn (p : Phase) : TrackerFn (listedIn p) :=
  .ite (p := fun s => (s.phase != p) = true) (fun _ _ => Iff.rfl) (trackerFn_flag _) trackerFn_id

theorem trackerFn_commandCommon (o : Byte) : TrackerFn (commandCommon o) := by
  have hp : TrackerFn endParameters := .ite (fun _ _ => Iff.rfl) (fun _ _ => rfl) trackerFn_id
  have hh : TrackerFn endHalfPixel := .ite (fun _ _ => Iff.rfl) (fun _ _ => rfl) trackerFn_id
  have hw : TrackerFn (endWindow o) :=
    .ite (fun _ _ => Iff.rfl) (fun _ _ => rfl) (.ite (fun _ _ => Iff.rfl) (fun _ _ => rfl) trackerFn_id)
  have hc : TrackerFn (endColumns o) := .ite (fun _ _ => Iff.rfl) (fun _ _ => rfl) trackerFn_id
  exact hc.comp (hw.comp (hh.comp hp))

theorem trackerFn_pageAddressRule : TrackerFn pageAddressRule :=
  .ite (fun _ _ => Iff.rfl)
    (.ite (p := fun s => s.caDone.isNone = true) (fun _ _ => Iff.rfl)
      ((trackerFn_flag .worder).comp (trackerFn_owe 0x2B 4)) (trackerFn_owe 0x2B 4))
    ((trackerFn_flag .unlisted).comp (trackerFn_owe 0x2B 4))

theorem trackerFn_memoryWriteRule : TrackerFn memoryWriteRule := by
  intro s u
  have hphase : (s.graft u).phase = s.phase := rfl
  cases hp : s.phase with
  | windowed => rw [memoryWriteRule_windowed hp, memoryWriteRule_windowed (hphase.trans hp)]; rfl
  | sleeping => rw [memoryWriteRule_sleeping hp, memoryWriteRule_sleeping (hphase.trans hp)]; rfl
  | uninit | awakeIdle | writing => simp only [memoryWriteRule, hphase, hp]; rfl

theorem trackerFn_commandRule (o : Byte) : TrackerFn (commandRule o) := by
  unfold commandRule
  split_ifs
  iterate 3 exact (trackerFn_listedIn _).comp (trackerFn_owe _ _)
  iterate 2 exact .ite (fun _ _ => Iff.rfl) (fun _ _ => rfl) ((trackerFn_flag _).comp trackerFn_oweNothing)
  · exact (trackerFn_listedIn _).comp (trackerFn_owe _ _)
  · exact trackerFn_pageAddressRule
  · exact trackerFn_memoryWriteRule
  · exact (trackerFn_flag _).comp trackerFn_oweNothing

theorem trackerFn_takeCommand (o : Byte) {r : State → State} (hr : TrackerFn r) : TrackerFn (takeCommand o r) :=
  .ite (fun _ _ => Iff.rfl) (trackerFn_flag _) (hr.comp (trackerFn_commandCommon o))

theorem trackerFn_completePages : TrackerFn completePages := by
  intro s u
  have hcols : (s.graft u).caDone = s.caDone := rfl
  have hphase : (s.graft u).phase = s.phase := rfl
  unfold completePages
  rw [hcols, hphase]
  split <;> rfl

theorem trackerFn_takeParameter (b : Byte) : TrackerFn (takeParameter b) := by
  have hdone : TrackerFn (completeCommand b) :=
    .ite (fun _ _ => Iff.rfl) (fun _ _ => rfl) <| .ite (fun _ _ => Iff.rfl) (fun _ _ => rfl) <|
      .ite (fun _ _ => Iff.rfl) (fun _ _ => rfl) <| .ite (fun _ _ => Iff.rfl) trackerFn_completePages trackerFn_id
  have hclear : TrackerFn fun s => { s with cmd := none } := fun _ _ => rfl
  have hcollect : TrackerFn fun s => { s with acc := s.acc ++ [b], need := s.need - 1 } := fun _ _ => rfl
  have hlast := TrackerFn.ite (p := fun s => s.need = 0) (fun _ _ => Iff.rfl) (hclear.comp hdone) trackerFn_id
  exact hlast.comp hcollect

theorem trackerFn_takePixel (b : Byte) : TrackerFn (takePixel b) := by
  intro s u
  have hhalf : (s.graft u).half = s.half := rfl
  unfold takePixel
  rw [hhalf]
  split <;> rfl

theorem trackerFn_takeData (b : Byte) : TrackerFn (takeData b) :=
  .ite (fun _ _ => Iff.rfl) (trackerFn_flag _) <| .ite (fun _ _ => Iff.rfl) (trackerFn_takeParameter b) <|
    .ite (fun _ _ => Iff.rfl) (trackerFn_takePixel b) (trackerFn_flag _)

/-- A closed frame reads and writes the tracker, the violation set and GRAM only (R140). -/
theorem takeFrame_graft (f : Frame) : TrackerFn (takeFrame f) :=
  .ite (fun _ _ => Iff.rfl) (trackerFn_takeData _) (trackerFn_takeCommand _ (trackerFn_commandRule _))

theorem takeFrame_eq_graft (f : Frame) (s : State) : takeFrame f s = (takeFrame f s).graft s := by
  rw [← takeFrame_graft, State.graft_self]

end Sys2Proof.Machine
end

section
/-! PROOFS. A micro-operation performed, apart from the sequencer (10_state.md R25): what `step` does to the rest of the
state depends neither on `cur` nor on `pc`, so that an operation's run is its expansion performed in order. -/

namespace Sys2Proof.Machine

/-- The sequencer set to an operation in progress and an index. -/
def State.seqAt (s : State) (c : Option Operation) (p : Nat) : State := { s with cur := c, pc := p }

section
variable (s : State) (c : Option Operation) (p : Nat)

theorem State.seqAt_lines : (s.seqAt c p).lines = s.lines := rfl

theorem State.seqAt_rxRs : (s.seqAt c p).rxRs = s.rxRs := rfl

theorem State.seqAt_rxBits : (s.seqAt c p).rxBits = s.rxBits := rfl

theorem State.seqAt_rxBad : (s.seqAt c p).rxBad = s.rxBad := rfl

theorem State.seqAt_phase : (s.seqAt c p).phase = s.phase := rfl

theorem takeFrame_seqAt (f : Frame) : takeFrame f (s.seqAt c p) = (takeFrame f s).seqAt c p :=
  calc takeFrame f (s.seqAt c p) = (takeFrame f s).graft (s.seqAt c p) := takeFrame_graft f s (s.seqAt c p)
    _ = ((takeFrame f s).graft s).seqAt c p := rfl
    _ = (takeFrame f s).seqAt c p := by rw [← takeFrame_eq_graft]

theorem sample_seqAt : sample (s.seqAt c p) = (sample s).seqAt c p := by
  have hdriven (u : State) : checkDriven (u.seqAt c p) = (checkDriven u).seqAt c p := by
    unfold checkDriven
    rw [State.seqAt_lines]
    split <;> rfl
  have hmode (u : State) : sampleMode (u.seqAt c p) = (sampleMode u).seqAt c p := by
    unfold sampleMode
    rw [State.seqAt_lines, State.seqAt_rxRs]
    split
    · cases u.lines.rs <;> rfl
    · split <;> rfl
  have hdata (u : State) : sampleData (u.seqAt c p) = (sampleData u).seqAt c p := by
    unfold sampleData
    rw [State.seqAt_lines]
    cases u.lines.data <;> rfl
  rw [sample, hdriven, hmode, hdata, sample]

theorem closeFrame_seqAt : closeFrame (s.seqAt c p) = ((closeFrame s).1.seqAt c p, (closeFrame s).2) := by
  unfold closeFrame
  rw [State.seqAt_rxBits, State.seqAt_rxBad]
  split
  · rw [State.seqAt_rxRs]
    cases s.rxRs <;> rfl
  · rw [State.flagIf_eq, State.flagIf_eq]
    rfl

theorem receive_seqAt (n : Line) (v : Level) :
    receive n v (s.seqAt c p) = ((receive n v s).1.seqAt c p, (receive n v s).2) := by
  unfold receive
  split
  · rw [State.seqAt_lines]
    split <;> rfl
  · rw [State.seqAt_lines]
    split
    · rw [sample_seqAt]
    · rfl
  · rw [State.seqAt_lines]
    split
    · exact closeFrame_seqAt s c p
    · rfl
  all_goals rfl

theorem trackReset_seqAt (n : Line) (v : Level) : trackReset n v (s.seqAt c p) = (trackReset n v s).seqAt c p := by
  unfold trackReset resetRise
  split
  · rw [State.seqAt_lines]
    split <;> rfl
  · rw [State.seqAt_lines, State.seqAt_phase]
    split
    · split <;> rfl
    · rfl
  all_goals rfl

theorem lineWrite_seqAt (n : Line) (v : Level) :
    lineWrite n v (s.seqAt c p) = ((lineWrite n v s).1.seqAt c p, (lineWrite n v s).2) := by
  simp only [lineWrite, trackReset_seqAt, receive_seqAt]
  rfl

end

/-- A line write with the tracker's answer to the frame it closes, if any. -/
def performSet (n : Line) (v : Level) (s : State) : State :=
  match (lineWrite n v s).2 with
  | none => (lineWrite n v s).1
  | some f => takeFrame f (lineWrite n v s).1

/-- A micro-operation performed: a line write, or a wait that a report ends. -/
def perform (m : MicroOp) (s : State) : State :=
  match m with
  | .set n v => performSet n v s
  | .wait k => { s with lt := s.lt ++ [.wait k], delays := if k = 0 then s.delays else s.delays.tail }

theorem perform_seqAt (m : MicroOp) (s : State) (c : Option Operation) (p : Nat) :
    perform m (s.seqAt c p) = (perform m s).seqAt c p := by
  cases m with
  | wait k => rfl
  | set n v =>
    simp only [perform, performSet, lineWrite_seqAt]
    cases (lineWrite n v s).2 with
    | none => rfl
    | some f => exact takeFrame_seqAt _ c p f

/-- A line write and the frame it closes move nothing of the block but the register and the line trace. -/
theorem performSet_block (n : Line) (v : Level) (s : State) :
    (performSet n v s).block = { s.block with lines := s.lines.put n v, lt := s.lt ++ [.set n v] } := by
  have hwrite := (lineWrite_block n v s).1
  unfold performSet
  split
  · exact hwrite
  · rw [takeFrame_eq_graft]
    exact hwrite

theorem advance_eq_seqAt (len : Nat) (s : State) :
    advance len s = s.seqAt (if s.pc + 1 = len then none else s.cur) (if s.pc + 1 = len then 0 else s.pc + 1) :=
  advance_eq len s

theorem takeFrame_cur (f : Frame) (s : State) : (takeFrame f s).cur = s.cur := by rw [takeFrame_eq_graft]; rfl

theorem takeFrame_pc (f : Frame) (s : State) : (takeFrame f s).pc = s.pc := by rw [takeFrame_eq_graft]; rfl

theorem advance_takeFrame (len : Nat) (f : Frame) (s : State) :
    advance len (takeFrame f s) = takeFrame f (advance len s) := by
  rw [advance_eq_seqAt, advance_eq_seqAt, takeFrame_seqAt, takeFrame_cur, takeFrame_pc]

/-- A step at a line write is the line write, the closed frame taken, and the sequencer's advance (R25, R84). -/
theorem step_performSet {s : State} {op : Operation} {n : Line} {v : Level} (hc : s.cur = some op)
    (hm : (s.expansion op)[s.pc]? = some (.set n v)) :
    step s = .next (advance (s.expansion op).length (performSet n v s)) := by
  rw [step_set hc hm]
  unfold performSet
  cases (lineWrite n v s).2 with
  | none => rfl
  | some f => exact (exec_decodeSymbol _ f _).trans (by rw [advance_takeFrame])

/-- A step of the busy block: a wait goes on or completes, or a line write is performed (R18, R25). -/
theorem step_busy_cases {s t : State} {op : Operation} (hc : s.cur = some op) (h : step s = .next t) :
    (∃ k, (s.expansion op)[s.pc]? = some (.wait k) ∧ t = waitStep (s.expansion op).length k s) ∨
    (∃ n v, (s.expansion op)[s.pc]? = some (.set n v) ∧
      t = advance (s.expansion op).length (performSet n v s)) := by
  cases hm : (s.expansion op)[s.pc]? with
  | none => cases (step_past_end hc hm).symm.trans h
  | some m =>
    cases m with
    | wait k => exact .inl ⟨k, rfl, (Host.Outcome.next.inj ((step_wait hc hm).symm.trans h)).symm⟩
    | set n v => exact .inr ⟨n, v, rfl, (Host.Outcome.next.inj ((step_performSet hc hm).symm.trans h)).symm⟩

/-! A whole expansion -/

/-- Micro-operations performed in order. -/
def performAll (ms : List MicroOp) (s : State) : State := ms.foldl (fun s m => perform m s) s

@[simp] theorem performAll_nil (s : State) : performAll [] s = s := rfl

@[simp] theorem performAll_cons (m : MicroOp) (ms : List MicroOp) (s : State) :
    performAll (m :: ms) s = performAll ms (perform m s) := rfl

theorem performAll_append (ms ns : List MicroOp) (s : State) :
    performAll (ms ++ ns) s = performAll ns (performAll ms s) := List.foldl_append

/-- The delay provider's reports suffice for the waits of a list of micro-operations (R18). -/
def Served (ms : List MicroOp) (delays : List Nat) : Prop :=
  (ms.filter MicroOp.isWait).length ≤ delays.length ∧ ∀ r ∈ delays, ∀ k, MicroOp.wait k ∈ ms → k ≤ r

theorem served_of_no_waits {ms : List MicroOp} (h : ms.filter MicroOp.isWait = []) (delays : List Nat) :
    Served ms delays := by
  refine ⟨by simp [h], fun r _ k hk => ?_⟩
  have : MicroOp.wait k ∈ ms.filter MicroOp.isWait := List.mem_filter.2 ⟨hk, rfl⟩
  simp [h] at this

theorem performSet_delays (n : Line) (v : Level) (s : State) : (performSet n v s).delays = s.delays :=
  congrArg BlockView.delays (performSet_block n v s)

theorem Served.perform {m : MicroOp} {ms : List MicroOp} {s : State} (h : Served (m :: ms) s.delays) :
    Served ms (perform m s).delays := by
  obtain ⟨hcount, hreach⟩ := h
  cases m with
  | set n v =>
    rw [Machine.perform, performSet_delays]
    exact ⟨hcount, fun r hr k hk => hreach r hr k (List.mem_cons_of_mem _ hk)⟩
  | wait k =>
    have hcount : (ms.filter MicroOp.isWait).length + 1 ≤ s.delays.length := hcount
    simp only [Machine.perform]
    split
    · exact ⟨by omega, fun r hr k hk => hreach r hr k (List.mem_cons_of_mem _ hk)⟩
    · refine ⟨by simp; omega, fun r hr k hk => ?_⟩
      exact hreach r (List.mem_of_mem_tail hr) k (List.mem_cons_of_mem _ hk)

theorem perform_expansion (m : MicroOp) (s : State) (op : Operation) :
    (perform m s).expansion op = s.expansion op := by
  cases m with
  | wait k => rfl
  | set n v =>
    have h := performSet_block n v s
    simp only [State.block, BlockView.mk.injEq] at h
    simp only [perform, State.expansion, h]

/-- A step whose micro-operation is a line write or a wait that is served performs it and advances. -/
theorem step_perform {s : State} {op : Operation} {m : MicroOp} {ms : List MicroOp} (hc : s.cur = some op)
    (hm : (s.expansion op)[s.pc]? = some m) (hd : Served (m :: ms) s.delays) :
    step s = .next (advance (s.expansion op).length (perform m s)) := by
  cases m with
  | set n v => exact step_performSet hc hm
  | wait k =>
    rw [step_wait hc hm, waitStep]
    obtain ⟨hcount, hreach⟩ := hd
    split
    · rename_i hk
      simp only [perform, waitDone, hk, if_true]
    · rename_i hk
      split
      · rename_i h
        rw [h] at hcount
        simp [MicroOp.isWait] at hcount
      · rename_i r rest h
        rw [if_pos (hreach r (by simp [h]) k List.mem_cons_self)]
        simp [perform, waitDone, h, hk]

theorem runSteps_succ_of_step {s t : State} (h : step s = .next t) (n : Nat) : runSteps (n + 1) s = runSteps n t := by
  rw [runSteps, h]

theorem advance_seqAt_end {len p : Nat} (h : p + 1 = len) (s : State) (c : Option Operation) :
    advance len (s.seqAt c p) = s.seqAt none 0 := if_pos h

theorem advance_seqAt_next {len p : Nat} (h : p + 1 ≠ len) (s : State) (c : Option Operation) :
    advance len (s.seqAt c p) = s.seqAt c (p + 1) := if_neg h

/-- From an index of the expansion on, as many steps as are left perform the rest and end idle (R25). -/
theorem runSteps_seqAt (op : Operation) : ∀ (ms : List MicroOp) (s : State) (p : Nat), ms ≠ [] →
    (s.expansion op).drop p = ms → Served ms s.delays →
    runSteps ms.length (s.seqAt (some op) p) = .next ((performAll ms s).seqAt none 0)
  | [], _, _, hne, _, _ => absurd rfl hne
  | m :: ms, s, p, _, hdrop, hd => by
    have hm : (s.expansion op)[p]? = some m := by
      rw [← List.head?_drop, hdrop]
      rfl
    have hrest : (s.expansion op).drop (p + 1) = ms := by rw [← List.tail_drop, hdrop]; rfl
    have hlen : (s.expansion op).length = p + 1 + ms.length := by
      have hp : p < (s.expansion op).length := (List.getElem?_eq_some_iff.1 hm).1
      have := congrArg List.length hrest
      rw [List.length_drop] at this
      omega
    have hstep : step (s.seqAt (some op) p) = .next (advance (s.expansion op).length _) :=
      step_perform (s := s.seqAt (some op) p) rfl hm hd
    rw [perform_seqAt] at hstep
    rw [List.length_cons, runSteps_succ_of_step hstep]
    cases ms with
    | nil => rw [advance_seqAt_end hlen.symm]; rfl
    | cons m' ms =>
      rw [advance_seqAt_next (by rw [hlen, List.length_cons]; omega)]
      exact runSteps_seqAt op (m' :: ms) (perform m s) (p + 1) nofun
        (by rw [perform_expansion, hrest]) hd.perform

/-- An accepted operation whose waits are served performs its whole expansion and ends idle (R61, R201). -/
theorem runSteps_expansion {s : State} {op : Operation} (hc : s.cur = some op) (hp : s.pc = 0)
    (hd : Served (s.expansion op) s.delays) :
    runSteps (s.expansion op).length s = .next ((performAll (s.expansion op) s).seqAt none 0) := by
  have hs : s.seqAt (some op) 0 = s := by rw [← hc, ← hp]; rfl
  have hne : s.expansion op ≠ [] := List.ne_nil_of_length_pos (expansion_pos _ _ _ _ _ _)
  have h := runSteps_seqAt op (s.expansion op) s 0 hne rfl hd
  rwa [hs] at h

end Sys2Proof.Machine
end

section
/-! PROOFS. Bit cells, frames and lists of frames performed (30_encoding.md R71 to R73, R84): what a transport call
does to the lines, the traces and the receiver, and that the tracker gets exactly its frame (40_transport.md R100 to
R105). -/

namespace Sys2Proof.Machine

/-- The register and the line trace after a line write (R17). -/
def State.wrote (s : State) (n : Line) (v : Level) : State :=
  { s with lines := s.lines.put n v, lt := s.lt ++ [.set n v] }

/-- A line write that is no reset event: the receiver's answer, then the register and the trace. -/
theorem lineWrite_of_receive {n : Line} {v : Level} {s u : State} {o : Option Frame} (ht : trackReset n v s = s)
    (hr : receive n v s = (u, o)) : lineWrite n v s = (u.wrote n v, o) := by
  rw [lineWrite, ht, hr]
  rfl

theorem perform_set {n : Line} {v : Level} {s u : State} (ht : trackReset n v s = s)
    (hr : receive n v s = (u, none)) : perform (.set n v) s = u.wrote n v := by
  simp only [perform, performSet, lineWrite_of_receive ht hr]

theorem perform_clkFall (s : State) : perform (.set .clk false) s = s.wrote .clk false := perform_set rfl rfl

theorem perform_data (v : Level) (s : State) : perform (.set .data v) s = s.wrote .data v := perform_set rfl rfl

theorem perform_rs (v : Level) (s : State) : perform (.set .rs v) s = s.wrote .rs v := perform_set rfl rfl

/-! Chip-select not low: nothing is sampled -/

theorem perform_clkRise_unselected {s : State} (hcs : s.lines.cs ≠ some false) :
    perform (.set .clk true) s = s.wrote .clk true :=
  perform_set rfl (if_neg fun h => hcs h.2)

/-- A cell with chip-select not low moves the clock and the data line only (R84, R105). -/
theorem performAll_cell_unselected (v : Level) {s : State} (hcs : s.lines.cs ≠ some false) :
    performAll (cell v) s =
      { s with lines := { s.lines with data := some v, clk := some true }, lt := s.lt ++ cell v } := by
  have hrise : perform (.set .clk true) ((s.wrote .clk false).wrote .data v) = _ := perform_clkRise_unselected hcs
  rw [cell, performAll_cons, performAll_cons, performAll_cons, performAll_nil, perform_clkFall, perform_data, hrise]
  simp [State.wrote, Lines.put]

theorem performAll_cells_unselected (v : Level) : ∀ (vs : List Level) {s : State}, s.lines.cs ≠ some false →
    performAll ((vs ++ [v]).flatMap cell) s =
      { s with lines := { s.lines with data := some v, clk := some true }, lt := s.lt ++ (vs ++ [v]).flatMap cell }
  | [], s, hcs => by simpa using performAll_cell_unselected v hcs
  | w :: vs, s, hcs => by
    rw [List.cons_append, List.flatMap_cons, performAll_append, performAll_cell_unselected w hcs]
    refine (performAll_cells_unselected v vs (by exact hcs)).trans ?_
    simp

/-- The bits of a byte end with bit 0 (R51). -/
theorem msbFirst_eq_append (b : Byte) : ∃ vs, msbFirst b = vs ++ [b.getLsbD 0] :=
  ⟨(msbFirst b).take 7, rfl⟩

theorem performAll_byteBody_unselected (b : Byte) {s : State} (hcs : s.lines.cs ≠ some false) :
    performAll (byteBody b) s =
      { s with lines := { s.lines with data := some (b.getLsbD 0), clk := some true }, lt := s.lt ++ byteBody b } := by
  obtain ⟨vs, hvs⟩ := msbFirst_eq_append b
  rw [byteBody, hvs]
  exact performAll_cells_unselected _ vs hcs

/-- Settles O29: no clock of the byte body rises under chip-select. -/
theorem writeByteAloneDeliversNothing : Obligations.WriteByteAloneDeliversNothing := by
  intro s hc hp hcs
  have hrun := runSteps_expansion hc hp (served_of_no_waits (waits_byteBody _) _)
  refine Eq.trans hrun ?_
  rw [show s.expansion .writeByte = byteBody (lo8 s.latchA) from rfl, performAll_byteBody_unselected _ hcs]
  rfl

/-! Chip-select low: each cell samples one bit -/

/-- A rising clock with both lines driven and the mode unchanged samples the bit and nothing else (R84). -/
theorem sample_good {s : State} {v m : Level} (hd : s.lines.data = some v) (hm : s.lines.rs = some m)
    (hrx : s.rxRs = none ∨ s.rxRs = some m) : sample s = { s with rxRs := some m, rxBits := s.rxBits ++ [v] } := by
  have hdriven : checkDriven s = s := by simp [checkDriven, hd, hm]
  have hmode : sampleMode s = { s with rxRs := some m } := by
    unfold sampleMode
    rcases hrx with h | h
    · rw [if_pos h, hm, readLevel_driven]
    · rw [if_neg (by simp [h]), if_neg (by simp [h, hm]), ← h]
  rw [sample, hdriven, hmode, sampleData]
  simp only [hd, readLevel_driven]

theorem perform_clkRise_selected {v m : Level} {s : State} (hclk : s.lines.clk = some false)
    (hcs : s.lines.cs = some false) (hd : s.lines.data = some v) (hm : s.lines.rs = some m)
    (hrx : s.rxRs = none ∨ s.rxRs = some m) :
    perform (.set .clk true) s =
      State.wrote { s with rxRs := some m, rxBits := s.rxBits ++ [v] } .clk true :=
  perform_set rfl (sample_good hd hm hrx ▸ if_pos ⟨hclk, hcs⟩)

theorem performAll_cell_selected (v : Level) {m : Level} {s : State} (hcs : s.lines.cs = some false)
    (hm : s.lines.rs = some m) (hrx : s.rxRs = none ∨ s.rxRs = some m) :
    performAll (cell v) s =
      { s with lines := { s.lines with data := some v, clk := some true }, lt := s.lt ++ cell v,
               rxRs := some m, rxBits := s.rxBits ++ [v] } := by
  have hrise : perform (.set .clk true) ((s.wrote .clk false).wrote .data v) = _ :=
    perform_clkRise_selected rfl hcs rfl hm hrx
  rw [cell, performAll_cons, performAll_cons, performAll_cons, performAll_nil, perform_clkFall, perform_data, hrise]
  simp [State.wrote, Lines.put]

theorem performAll_cells_selected (v : Level) {m : Level} : ∀ (vs : List Level) {s : State},
    s.lines.cs = some false → s.lines.rs = some m → s.rxRs = none ∨ s.rxRs = some m →
    performAll ((vs ++ [v]).flatMap cell) s =
      { s with lines := { s.lines with data := some v, clk := some true }, lt := s.lt ++ (vs ++ [v]).flatMap cell,
               rxRs := some m, rxBits := s.rxBits ++ (vs ++ [v]) }
  | [], s, hcs, hm, hrx => by simpa using performAll_cell_selected v hcs hm hrx
  | w :: vs, s, hcs, hm, hrx => by
    rw [List.cons_append, List.flatMap_cons, performAll_append, performAll_cell_selected w hcs hm hrx]
    refine (performAll_cells_selected (m := m) v vs (by exact hcs) (by exact hm) (.inr rfl)).trans ?_
    simp

theorem performAll_byteBody_selected (b : Byte) {m : Level} {s : State} (hcs : s.lines.cs = some false)
    (hm : s.lines.rs = some m) (hrx : s.rxRs = none ∨ s.rxRs = some m) :
    performAll (byteBody b) s =
      { s with lines := { s.lines with data := some (b.getLsbD 0), clk := some true }, lt := s.lt ++ byteBody b,
               rxRs := some m, rxBits := s.rxBits ++ msbFirst b } := by
  obtain ⟨vs, hvs⟩ := msbFirst_eq_append b
  rw [byteBody, hvs]
  exact performAll_cells_selected _ vs hcs hm hrx

/-- Chip-select falls: a frame opens (R84). -/
theorem perform_csFall {s : State} (hcs : s.lines.cs ≠ some false) :
    perform (.set .cs false) s = (openFrame s).wrote .cs false :=
  perform_set rfl (if_pos hcs)

/-- Chip-select rises on eight good bits: `FT` gains the frame (R84). -/
theorem lineWrite_csRise_good {m : Level} {s : State} (hcs : s.lines.cs = some false) (hbits : s.rxBits.length = 8)
    (hgood : s.rxBad = false) (hm : s.rxRs = some m) :
    lineWrite .cs true s =
      (State.wrote { s with ft := s.ft ++ [⟨m, byteOf s.rxBits⟩], rxOpen := false } .cs true,
        some ⟨m, byteOf s.rxBits⟩) := by
  have hr : receive .cs true s = closeFrame s := if_pos hcs
  refine lineWrite_of_receive rfl (hr.trans ?_)
  simp [closeFrame, hbits, hgood, hm, readLevel_driven]

theorem perform_csRise_good {m : Level} {s : State} (hcs : s.lines.cs = some false) (hbits : s.rxBits.length = 8)
    (hgood : s.rxBad = false) (hm : s.rxRs = some m) :
    perform (.set .cs true) s =
      takeFrame ⟨m, byteOf s.rxBits⟩
        (State.wrote { s with ft := s.ft ++ [⟨m, byteOf s.rxBits⟩], rxOpen := false } .cs true) := by
  simp only [perform, performSet, lineWrite_csRise_good hcs hbits hgood hm]

/-- What a transport call leaves of the lines, the traces and the receiver (R84, R103). -/
def delivered (f : Frame) (s : State) : State :=
  { s with
    lines := { s.lines with cs := some true, rs := some f.mode, data := some (f.byte.getLsbD 0), clk := some true }
    lt := s.lt ++ frameOps f, ft := s.ft ++ [f]
    rxOpen := false, rxRs := some f.mode, rxBits := msbFirst f.byte, rxBad := false }

/-- A frame performed with chip-select not low: the receiver gets it and the tracker takes it (R84, R101, R102). -/
theorem performAll_frameOps (f : Frame) {s : State} (hcs : s.lines.cs ≠ some false) :
    performAll (frameOps f) s = takeFrame f (delivered f s) := by
  obtain ⟨m, b⟩ := f
  have hbody : performAll (byteBody b) (((openFrame s).wrote .cs false).wrote .rs m) = _ :=
    performAll_byteBody_selected b (m := m) rfl rfl (.inl rfl)
  rw [frameOps, List.append_assoc, performAll_append, performAll_append, performAll_cons, performAll_cons,
    performAll_nil, performAll_cons, performAll_nil, perform_csFall hcs, perform_rs, hbody]
  refine (perform_csRise_good (m := m) rfl rfl rfl rfl).trans ?_
  change takeFrame ⟨m, byteOf (msbFirst b)⟩ _ = _
  simp [byteOf_msbFirst, State.wrote, openFrame, delivered, Lines.put, frameOps]

/-- Settles O30: the run is the frame performed, and the frame's instruction is the tracker's taking it. -/
theorem transportCallDeliversExactlyItsFrame : Obligations.TransportCallDeliversExactlyItsFrame := by
  intro s f hc hp hbyte hcs
  have hx : s.expansion (if f.mode then .writeData else .writeCommand) = frameOps f := by
    obtain ⟨m, b⟩ := f
    obtain rfl : lo8 s.latchA = b := hbyte
    cases m <;> rfl
  have hrun := runSteps_expansion hc hp (hx ▸ served_of_no_waits rfl _)
  rw [hx, performAll_frameOps f hcs, ← takeFrame_seqAt] at hrun
  exact hrun.trans (exec_decodeSymbol _ f _).symm

/-! Several frames -/

/-- Frames taken by the tracker in order. -/
def takeFrames (fs : List Frame) (s : State) : State := fs.foldl (fun s f => takeFrame f s) s

@[simp] theorem takeFrames_nil (s : State) : takeFrames [] s = s := rfl

@[simp] theorem takeFrames_cons (f : Frame) (fs : List Frame) (s : State) :
    takeFrames (f :: fs) s = takeFrames fs (takeFrame f s) := rfl

theorem takeFrames_append (fs gs : List Frame) (s : State) :
    takeFrames (fs ++ gs) s = takeFrames gs (takeFrames fs s) := List.foldl_append

theorem takeFrames_graft (fs : List Frame) : TrackerFn (takeFrames fs) := by
  induction fs with
  | nil => exact trackerFn_id
  | cons f fs ih => exact fun s u => by rw [takeFrames_cons, takeFrames_cons, takeFrame_graft, ih]

/-- What frames leave of the lines, the traces and the receiver: the lines and the sample are the last one's. -/
def deliveredAll (fs : List Frame) (f : Frame) (s : State) : State :=
  { delivered f s with lt := s.lt ++ (fs ++ [f]).flatMap frameOps, ft := s.ft ++ (fs ++ [f]) }

/-- Frames performed with chip-select not low: the tracker takes them one after the other, whatever the lines and the
receiver then hold. -/
theorem performAll_frames (f : Frame) : ∀ (fs : List Frame) {s : State}, s.lines.cs ≠ some false →
    performAll ((fs ++ [f]).flatMap frameOps) s = (takeFrames (fs ++ [f]) s).graft (deliveredAll fs f s)
  | [], s, hcs => by
    simp only [List.nil_append, List.flatMap_singleton, performAll_frameOps f hcs, takeFrames_cons, takeFrames_nil]
    exact takeFrame_graft f s (delivered f s)
  | g :: fs, s, hcs => by
    have hg : takeFrame g (delivered g s) = (takeFrame g s).graft (delivered g s) := takeFrame_graft g s (delivered g s)
    rw [List.cons_append, List.flatMap_cons, performAll_append, performAll_frameOps g hcs, hg]
    refine (performAll_frames f fs (by simp [State.graft, delivered])).trans ?_
    rw [takeFrames_graft, takeFrames_cons]
    simp [State.graft, deliveredAll, delivered]

end Sys2Proof.Machine
end

section
/-! PROOFS. The part common to all command frames, and the commands that collect data bytes (42_controller_commands.md
R140 to R145, R148, R149, R151, R152): each frame's answer as an update of the tracker. -/

namespace Sys2Proof.Machine

/-! The common part (R142), line by line -/

theorem endParameters_eq (s : State) :
    endParameters s =
      { s with
        cmd := if s.need > 0 then none else s.cmd
        need := 0
        acc := if s.need > 0 then [] else s.acc
        viol := if s.need > 0 then s.viol.add .short else s.viol } := by
  unfold endParameters
  split
  · rfl
  · have : s.need = 0 := by omega
    simp only [← this]

theorem endHalfPixel_eq (s : State) :
    endHalfPixel s = { s with half := none, viol := if s.half ≠ none then s.viol.add .halfpix else s.viol } := by
  unfold endHalfPixel
  split
  · rfl
  · rename_i h
    simp only [← not_not.1 h]

theorem endWindow_eq (o : Byte) (s : State) :
    endWindow o s =
      { s with
        phase := if s.phase = .writing ∨ s.phase = .windowed ∧ o ≠ 0x2C then .awakeIdle else s.phase
        viol := if s.phase = .windowed ∧ o ≠ 0x2C then s.viol.add .worder else s.viol } := by
  unfold endWindow
  by_cases hw : s.phase = .writing
  · simp [hw]
  · by_cases ho : s.phase = .windowed ∧ o ≠ 0x2C
    · rw [if_neg hw, if_pos ho, if_pos (.inr ho), if_pos ho]
      rfl
    · rw [if_neg hw, if_neg ho, if_neg (not_or.2 ⟨hw, ho⟩), if_neg ho]

theorem endColumns_eq (o : Byte) (s : State) :
    endColumns o s = { s with caDone := if o = 0x2B then s.caDone else none } := by
  unfold endColumns
  by_cases h : o = 0x2B
  · rw [if_neg (not_not.2 h), if_pos h]
  · rw [if_pos h, if_neg h]

/-- Settles O33: the four parts of the common part touch different fields and add their codes in order. -/
theorem commandFrameEndsWhatWasOpen : Obligations.CommandFrameEndsWhatWasOpen := by
  intro o s v1 v2
  rw [commandCommon, endParameters_eq, endHalfPixel_eq, endWindow_eq, endColumns_eq]

/-- Settles O32: in `Uninit` a command frame and a data frame both take the default of R140. -/
theorem framesBeforeTheResetPulseAreUnlisted : Obligations.FramesBeforeTheResetPulseAreUnlisted := by
  intro s i hs hi
  rcases exec_frame_eq hi s with ⟨-, b, h⟩ | ⟨-, o, r, h⟩
  · exact h.trans (congrArg Host.Outcome.next (if_pos hs))
  · exact h.trans (congrArg Host.Outcome.next (if_pos hs))

/-! Commands that are owed bytes -/

/-- A command owed `n` bytes and listed in phase `p` (R143 to R145, R148), outside `Uninit`. -/
theorem takeCommand_owe (o : Byte) (n : Nat) (p : Phase) {s : State} (hs : s.phase ≠ .uninit) :
    takeCommand o (fun s => listedIn p (owe o n s)) s =
      { commandCommon o s with
        cmd := some o, need := n, acc := []
        viol := if (commandCommon o s).phase = p then (commandCommon o s).viol
                else (commandCommon o s).viol.add .unlisted } := by
  rw [takeCommand_of_ne_uninit o _ hs, listedIn, State.flagIf_eq]
  by_cases h : (commandCommon o s).phase = p <;> simp [owe, h]

theorem takeData_parameter (b : Byte) {s : State} (hs : s.phase ≠ .uninit) (hn : 0 < s.need) :
    takeData b s = takeParameter b s := by
  rw [takeData, if_neg hs, if_pos hn]

/-- A data byte that is not the last one owed (R151). -/
theorem takeData_collect (b : Byte) {s : State} (hs : s.phase ≠ .uninit) (hn : 1 < s.need) :
    takeData b s = { s with acc := s.acc ++ [b], need := s.need - 1 } := by
  rw [takeData_parameter b hs (by omega)]
  exact if_neg (by show ¬s.need - 1 = 0; omega)

/-- The last byte owed is collected (R151). -/
def lastByte (b : Byte) (s : State) : State := { s with acc := s.acc ++ [b], need := 0 }

/-- The last data byte owed completes the command (R151). -/
theorem takeData_complete {b : Byte} {s u : State} (hs : s.phase ≠ .uninit) (hn : s.need = 1)
    (hu : completeCommand b (lastByte b s) = u) : takeData b s = { u with cmd := none } := by
  rw [takeData_parameter b hs (by omega), takeParameter, hn, ← hu]
  rfl

theorem completeCommand_vcom (b : Byte) {s : State} (h : s.cmd = some 0xC5) : completeCommand b s = s := by
  simp [completeCommand, h]

theorem completeCommand_mac (b : Byte) {s : State} (h : s.cmd = some 0x36) :
    completeCommand b s = { s with mac := some b } := if_pos h

theorem completeCommand_format (b : Byte) {s : State} (h : s.cmd = some 0x3A) :
    completeCommand b s = { s with fmt16 := b == 0x55 } := by
  simp [completeCommand, h]

theorem completeCommand_columns (b : Byte) {s : State} (h : s.cmd = some 0x2A) :
    completeCommand b s = completeColumns s := by
  simp [completeCommand, h]

theorem completeCommand_pages (b : Byte) {s : State} (h : s.cmd = some 0x2B) :
    completeCommand b s = completePages s := by
  simp [completeCommand, h]

/-- Four collected bytes as two 16-bit values, high bytes first (R148, R149). -/
theorem accPair_four {s : State} {b0 b1 b2 b3 : Byte} (h : s.acc = [b0, b1, b2, b3]) :
    accPair s = (b0 ++ b1, b2 ++ b3) := by
  simp [accPair, accByte, h, pair]

theorem completePages_four {s : State} {cs ce : Half} {b0 b1 b2 b3 : Byte} (hc : s.caDone = some (cs, ce))
    (hp : s.phase = .awakeIdle) (h : s.acc = [b0, b1, b2, b3]) :
    completePages s =
      { s with win := some ⟨cs, ce, b0 ++ b1, b2 ++ b3⟩, caDone := none, phase := .windowed } := by
  simp only [completePages, hc, hp, accPair_four h]

theorem completePages_of_not {s : State} (h : s.caDone = none ∨ s.phase ≠ .awakeIdle) : completePages s = s := by
  unfold completePages
  split
  · rename_i hc hp
    rcases h with h | h
    · rw [hc] at h; cases h
    · exact absurd hp h
  · rfl

theorem completeColumns_four {s : State} {b0 b1 b2 b3 : Byte} (h : s.acc = [b0, b1, b2, b3]) :
    completeColumns s = { s with caDone := some (b0 ++ b1, b2 ++ b3) } := by
  rw [completeColumns, accPair_four h]

theorem lastByte_acc {s : State} {b0 b1 b2 : Byte} (h : s.acc = [b0, b1, b2]) (b : Byte) :
    (lastByte b s).acc = [b0, b1, b2, b] := congrArg (· ++ [b]) h

/-- Settles O34: the completion of VCOM control is none of the four that do something. -/
theorem vcomControlIsOwedTwoBytes : Obligations.VcomControlIsOwedTwoBytes := by
  refine ⟨fun s hs => congrArg Host.Outcome.next (takeCommand_owe 0xC5 2 .sleeping hs), fun s b hs hc hn => ?_⟩
  exact congrArg Host.Outcome.next (takeData_complete hs hn (completeCommand_vcom b hc))

/-- Settles O35: the one byte owed is the last, and its completion keeps it. -/
theorem memoryAccessControlKeepsItsByte : Obligations.MemoryAccessControlKeepsItsByte := by
  refine ⟨fun s hs => congrArg Host.Outcome.next (takeCommand_owe 0x36 1 .sleeping hs), fun s b hs hc hn => ?_⟩
  exact congrArg Host.Outcome.next (takeData_complete hs hn (completeCommand_mac b hc))

/-- Settles O36: the one byte owed is the last, and its completion compares it. -/
theorem pixelFormatSetTakesOnlySixteenBits : Obligations.PixelFormatSetTakesOnlySixteenBits := by
  refine ⟨fun s hs => congrArg Host.Outcome.next (takeCommand_owe 0x3A 1 .sleeping hs), fun s b hs hc hn => ?_⟩
  exact congrArg Host.Outcome.next (takeData_complete hs hn (completeCommand_format b hc))

/-- Settles O39: the fourth byte completes the command with the four bytes collected. -/
theorem columnAddressSetCollectsItsPair : Obligations.ColumnAddressSetCollectsItsPair := by
  refine ⟨fun s hs => congrArg Host.Outcome.next (takeCommand_owe 0x2A 4 .awakeIdle hs),
    fun s b0 b1 b2 b hs hc hn ha => ?_⟩
  have hdone : completeCommand b (lastByte b s) = { lastByte b s with caDone := some (b0 ++ b1, b2 ++ b) } :=
    (completeCommand_columns (s := lastByte b s) b hc).trans (completeColumns_four (lastByte_acc ha b))
  refine congrArg Host.Outcome.next ((takeData_complete hs hn hdone).trans ?_)
  rw [← lastByte_acc ha b]
  rfl

/-- Page-address-set outside `Uninit` (R149). -/
theorem takeCommand_pages {s : State} (hs : s.phase ≠ .uninit) :
    takeCommand 0x2B pageAddressRule s =
      { commandCommon 0x2B s with
        cmd := some 0x2B, need := 4, acc := []
        viol := if (commandCommon 0x2B s).phase = .awakeIdle then
                  (if (commandCommon 0x2B s).caDone = none then (commandCommon 0x2B s).viol.add .worder
                   else (commandCommon 0x2B s).viol)
                else (commandCommon 0x2B s).viol.add .unlisted } := by
  rw [takeCommand_of_ne_uninit 0x2B _ hs, pageAddressRule]
  split
  · rw [State.flagIf_eq]
    simp [owe, Option.isNone_iff_eq_none]
  · rfl

/-- Settles O40: the fourth byte completes the command, and only with the columns in `AwakeIdle` is there a window. -/
theorem pageAddressSetSetsTheWindow : Obligations.PageAddressSetSetsTheWindow := by
  refine ⟨fun s hs => congrArg Host.Outcome.next (takeCommand_pages hs), fun s b0 b1 b2 b hs hc hn ha => ?_⟩
  have hpages : completeCommand b (lastByte b s) = _ := completeCommand_pages b hc
  rw [← lastByte_acc ha b]
  refine ⟨fun cs ce hcols hp => ?_, fun hnot => ?_⟩
  · exact congrArg Host.Outcome.next
      (takeData_complete hs hn (hpages.trans (completePages_four hcols hp (lastByte_acc ha b))))
  · exact congrArg Host.Outcome.next (takeData_complete hs hn (hpages.trans (completePages_of_not hnot)))

/-- Settles O42: with more than one byte owed the byte is a parameter and not the last. -/
theorem parameterByteIsCollected : Obligations.ParameterByteIsCollected :=
  fun _ b hs hn => congrArg Host.Outcome.next (takeData_collect b hs hn)

/-! Pixels -/

theorem takeData_pixel (b : Byte) {s : State} (hs : s.phase = .writing) (hn : s.need = 0) :
    takeData b s = takePixel b s := by
  simp [takeData, hs, hn]

theorem takePixel_first (b : Byte) {s : State} (h : s.half = none) : takePixel b s = { s with half := some b } := by
  simp only [takePixel, h]

theorem takePixel_second (b : Byte) {s : State} {h : Byte} (hh : s.half = some h) :
    takePixel b s = { storePixel (pair h b) s with npix := s.npix + 1, half := none } := by
  simp only [takePixel, hh]

/-- Settles O43: with nothing owed in an open stream the byte is pixel data. -/
theorem pixelBytesPairUpHighByteFirst : Obligations.PixelBytesPairUpHighByteFirst := by
  intro s b hs hn
  refine ⟨fun h => ?_, fun h hh => ?_⟩
  · exact congrArg Host.Outcome.next ((takeData_pixel b hs hn).trans (takePixel_first b h))
  · exact congrArg Host.Outcome.next ((takeData_pixel b hs hn).trans (takePixel_second b hh))

/-- After a list of writes an address reads as the last value written to it (R66). -/
theorem read_writeAll (m : Memory) (ws : List GramWrite) (a : Nat) :
    Memory.read (Memory.writeAll m ws) a =
      match ws.reverse.find? (fun w => gramAddress w.ca w.pa == a) with
      | some w => some w.value
      | none => Memory.read m a := by
  induction ws using List.reverseRecOn with
  | nil => rfl
  | append_singleton ws w ih =>
    rw [Memory.writeAll, List.foldl_append, List.foldl_cons, List.foldl_nil, List.reverse_append,
      List.reverse_singleton, List.singleton_append, List.find?_cons]
    by_cases h : gramAddress w.ca w.pa = a
    · subst h
      simp [Memory.read_write_same]
    · have hb : (gramAddress w.ca w.pa == a) = false := beq_eq_false_iff_ne.2 h
      rw [Memory.read_write_other _ _ (Ne.symm h), hb]
      exact ih

/-- Settles O44: the second byte of a pixel performs the open function's writes in order. -/
theorem pixelStoreChangesOnlyWhatGramStoreNames : Obligations.PixelStoreChangesOnlyWhatGramStoreNames := by
  intro s t b h hs hn hh ht a
  have hnext := (pixelBytesPairUpHighByteFirst s b hs hn).2 h hh
  obtain rfl := Host.Outcome.next.inj (hnext.symm.trans ht)
  exact read_writeAll _ _ a

/-- No rule of a command writes GRAM or clears a code. -/
theorem commandRule_trackerOnly (o : Byte) (s : State) : TrackerOnly s (commandRule o s) := by
  have howe (o : Byte) (n : Nat) (p : Phase) : TrackerOnly s (listedIn p (owe o n s)) :=
    (owe_trackerOnly o n s).trans (flagIf_trackerOnly _ _ _)
  have hunlisted : TrackerOnly s ((oweNothing s).flag .unlisted) :=
    (oweNothing_trackerOnly s).trans (flag_trackerOnly _ _)
  unfold commandRule
  split_ifs
  iterate 3 exact howe _ _ _
  · unfold sleepOutRule
    split
    · exact ⟨⟨rfl, rfl, rfl, rfl⟩, rfl, rfl, ViolSet.subset_refl _⟩
    · exact hunlisted
  · unfold displayOnRule
    split
    · exact ⟨⟨rfl, rfl, rfl, rfl⟩, rfl, rfl, ViolSet.subset_refl _⟩
    · exact hunlisted
  · exact howe _ _ _
  · unfold pageAddressRule
    split
    · exact (owe_trackerOnly _ _ _).trans (flagIf_trackerOnly _ _ _)
    · exact (owe_trackerOnly _ _ _).trans (flag_trackerOnly _ _)
  · unfold memoryWriteRule
    split
    · exact ((oweNothing_trackerOnly s).trans (flagIf_trackerOnly _ _ _)).trans
        ⟨⟨rfl, rfl, rfl, rfl⟩, rfl, rfl, ViolSet.subset_refl _⟩
    · exact hunlisted
    all_goals exact oweNothing_trackerOnly s
  · exact hunlisted

/-- Settles O47: but for a completed pixel, a frame is an operation of the tracker alone. -/
theorem framesChangeOnlyTheTracker : Obligations.FramesChangeOnlyTheTracker := by
  intro s t i hi ht
  refine ⟨(exec_frame_same hi ht).1, fun hnot => ?_⟩
  suffices h : TrackerOnly s t from ⟨h.gramCalls, fun a => by rw [h.gram]⟩
  rcases exec_frame_eq hi s with ⟨hk, b, h⟩ | ⟨-, o, r, h⟩
  · obtain rfl := Host.Outcome.next.inj (h.symm.trans ht)
    rcases takeData_cases b s with h | ⟨g, hw, hn, hg, -⟩
    · exact h
    · simp [hk, hw, hn, hg] at hnot
  · obtain rfl := Host.Outcome.next.inj (h.symm.trans ht)
    exact takeCommand_trackerOnly o _ (commandRule_trackerOnly r) s

end Sys2Proof.Machine
end

section
/-! PROOFS. The reset values, and the idle block: what a presented request does (10_state.md R25 to R28, R39;
30_encoding.md R79, R80; 60_exceptions.md R176, R177). -/

namespace Sys2Proof.Machine

/-- Settles O1: each value is the one `State.reset` writes. -/
theorem resetLeavesTheValuesOfTheTable : Obligations.ResetLeavesTheValuesOfTheTable :=
  ⟨fun n => by cases n <;> rfl, rfl, rfl, rfl, rfl, rfl,
    ⟨rfl, rfl, rfl, rfl, rfl, rfl, rfl, rfl, rfl, rfl⟩, rfl, rfl, rfl, ViolSet.has_empty, rfl, rfl, rfl⟩

/-! Requests -/

theorem accept_operation {op : Operation} (hop : op ≠ .initDisplay) (a b c d : Half) {s : State} (hc : s.cur = none) :
    accept op a b c d s =
      { s with cur := some op, pc := 0, latchA := a, latchB := b, latchC := c, latchD := d,
               viol := if s.inited then s.viol else s.viol.add .uninit } := by
  rw [accept_idle op a b c d hc, operationChecks, if_neg hop, State.flagIf_eq]
  cases s.inited <;> rfl

theorem accept_initDisplay (a b c d : Half) {s : State} (hc : s.cur = none) :
    accept .initDisplay a b c d s =
      { s with cur := some .initDisplay, pc := 0, latchA := a, latchB := b, latchC := c, latchD := d, inited := true,
               viol := if s.inited then s.viol.add .reinit else s.viol } := by
  rw [accept_idle .initDisplay a b c d hc, operationChecks, if_pos rfl, State.flagIf_eq]

theorem refuse_idle {s : State} (hc : s.cur = none) : refuse s = { s with refused := true } := by
  simp [refuse, State.busy, hc]

/-- Settles O13: the five acceptances are one. -/
theorem idleBlockAcceptsOperations : Obligations.IdleBlockAcceptsOperations := by
  intro s hc checked
  have hnext {op : Operation} (a b c d : Half) (hop : op ≠ .initDisplay) :=
    congrArg (Host.Outcome.next (φ := Fault) (ρ := Refusal)) (accept_operation hop a b c d hc)
  exact ⟨fun _ _ _ _ => hnext (op := .writeByte) _ _ _ _ nofun,
    fun _ _ _ _ => hnext (op := .writeCommand) _ _ _ _ nofun,
    fun _ _ _ _ => hnext (op := .writeData) _ _ _ _ nofun,
    fun _ _ _ _ => hnext (op := .setAddressWindow) _ _ _ _ nofun,
    fun _ _ _ _ => hnext (op := .drawPixel) _ _ _ _ nofun⟩

/-- Settles O14: the one acceptance that sets `inited`. -/
theorem idleBlockAcceptsInitialize : Obligations.IdleBlockAcceptsInitialize :=
  fun _ a b c d hc => congrArg Host.Outcome.next (accept_initDisplay a b c d hc)

/-- Settles O15: the latches stay. -/
theorem reservedRequestIsRefused : Obligations.ReservedRequestIsRefused :=
  fun s _ _ _ _ _ hc =>
    ⟨s.latchA, s.latchB, s.latchC, s.latchD, congrArg Host.Outcome.next (refuse_idle hc)⟩

/-- Settles O17: of the three things a request can do, only being held is left. -/
theorem requestIsHeldWhileBusy : Obligations.RequestIsHeldWhileBusy := by
  intro s i hc hi
  obtain ⟨t, ht⟩ := exec_answers i s
  rcases exec_request_cases hi ht with ⟨-, rfl⟩ | ⟨h, -⟩ | ⟨h, -⟩
  · exact ht
  · exact absurd h hc
  · exact absurd h hc

/-- Settles O18: a request is held, refused, or accepted into the sequencer. -/
theorem requestsChangeOnlyTheSequencerAndMarks : Obligations.RequestsChangeOnlyTheSequencerAndMarks := by
  intro s t i hi ht
  rcases exec_request_cases hi ht with ⟨-, rfl⟩ | ⟨-, rfl⟩ | ⟨-, op, a, b, c, d, v, j, -, -, rfl⟩ <;>
    simp [State.sameButSequencer, State.receiver]

/-! A step of the idle block -/

theorem step_request_ok {s : State} {w : RequestWord} {rest : List RequestWord} {i : Instr} (hc : s.cur = none)
    (hr : s.requests = w :: rest) (hd : decodeRequest w = .ok i) : step s = exec i { s with requests := rest } := by
  simp [step, fetch, hc, presentRequest, hr, hd]

theorem step_request_rejected {s : State} {w : RequestWord} {rest : List RequestWord} {e : DecodeError}
    (hc : s.cur = none) (hr : s.requests = w :: rest) (hd : decodeRequest w = .rejected e) :
    step s = .next { s with requests := rest, refused := true } := by
  simp [step, fetch, hc, presentRequest, hr, hd, refuse_idle]

theorem step_no_request {s : State} (hc : s.cur = none) (hr : s.requests = []) : step s = .next s := by
  simp [step, fetch, hc, presentRequest, hr]

/-- Settles O19: what the decoder answers is well formed, and the step runs it. -/
theorem stepRunsThePresentedRequest : Obligations.StepRunsThePresentedRequest :=
  ⟨fun _ _ _ _ hc hr hd => ⟨(decodeRequest_ok hd).2, step_request_ok hc hr hd⟩, fun _ h => step_no_request h.2 h.1⟩

theorem decodeRequest_reserved {w : RequestWord} (h : 6 ≤ (reqOp w).toNat) :
    decodeRequest w = .ok (.reservedReq (reqOp w) (reqA w) (reqB w) (reqC w) (reqD w)) := by
  have hne (op : BitVec 3) (hop : op.toNat < 6) : reqOp w ≠ op := by rintro rfl; omega
  rw [decodeRequest, if_neg (hne 0 (by decide)), if_neg (hne 1 (by decide)), if_neg (hne 2 (by decide)),
    if_neg (hne 3 (by decide)), if_neg (hne 4 (by decide)), if_neg (hne 5 (by decide))]

/-- Settles O16: a reserved word decodes to the reserved row and an ill-formed one is rejected; both are refused. -/
theorem stepRefusesReservedAndIllFormedRequests : Obligations.StepRefusesReservedAndIllFormedRequests := by
  intro s w rest hc hr hw
  refine ⟨s.latchA, s.latchB, s.latchC, s.latchD, ?_⟩
  rcases hw with h | h
  · rw [step_request_ok hc hr (decodeRequest_reserved h)]
    exact congrArg Host.Outcome.next (refuse_idle hc)
  · obtain ⟨e, he⟩ := (onlyIllFormedRequestsAreRejected w).2 h
    exact step_request_rejected hc hr he

end Sys2Proof.Machine
end

section
/-! PROOFS. The busy block: line writes, waits, and what both leave alone (00_scope.md R17, R18; 10_state.md R25 to R28;
70_reset_and_hazards.md R201). -/

namespace Sys2Proof.Machine

/-- Settles O20: the frame closed is the sampled one, and its instruction runs at the state the write leaves. -/
theorem stepRunsTheClosedFrame : Obligations.StepRunsTheClosedFrame := by
  intro s op m hc hm hcs hbits hgood hrs f ended
  rw [step_set hc hm, lineWrite_csRise_good hcs hbits hgood hrs]
  simp only [advance_eq, State.wrote, Lines.put, hc]
  simp [f, ended, dataKind]

/-- A step of the busy block as the block sees it: a wait, or a register written and its event appended (R17, R25). -/
theorem step_busy_block {s t : State} {op : Operation} (hc : s.cur = some op) (h : step s = .next t) :
    (∃ k, (s.expansion op)[s.pc]? = some (.wait k) ∧ t = waitStep (s.expansion op).length k s) ∨
    (∃ n v, (s.expansion op)[s.pc]? = some (.set n v) ∧
      t.block = (advance (s.expansion op).length { s with lines := s.lines.put n v, lt := s.lt ++ [.set n v] }).block ∧
      t.refused = s.refused ∧ s.viol.subset t.viol ∧ ∃ o : Option Frame, t.ft = s.ft ++ o.toList) := by
  rcases step_busy_cases hc h with hk | ⟨n, v, hm, -⟩
  · exact .inl hk
  · obtain ⟨u, hu, hblock, href, hviol, hft⟩ := step_set_block hc hm
    obtain rfl := Host.Outcome.next.inj (hu.symm.trans h)
    exact .inr ⟨n, v, hm, hblock, href, hviol, _, hft⟩

/-- Settles O21: what the block sees of the step is the register, the event and the sequencer. -/
theorem stepPerformsTheLineWrite : Obligations.StepPerformsTheLineWrite := by
  intro s op n v hc hm
  obtain ⟨t, ht, hblock, -⟩ := step_set_block hc hm
  simp only [State.block, advance_eq, BlockView.mk.injEq] at hblock
  obtain ⟨hlines, hcur, hpc, -, -, -, -, -, hlt, -⟩ := hblock
  refine ⟨t, ht, by rw [hlines, Lines.get_put_same], fun m hmn => by rw [hlines, Lines.get_put_other _ _ hmn], hlt,
    ?_⟩
  split <;> rename_i hend
  · simp [hcur, hpc, hend]
  · simp [hcur, hpc, hend, hc]

/-- Settles O22: both are the completing branch of the wait. -/
theorem waitCompletesOnAReport : Obligations.WaitCompletesOnAReport := by
  refine ⟨fun s len => ?_, fun s op k r rest hc hm hk hd hr => ?_⟩
  · simp [performMicroOp, waitStep, waitDone, advance_eq]
  · rw [step_wait hc hm, waitStep, if_neg hk, hd]
    simp [hr, waitDone, advance_eq, hc]

/-- Settles O23: an insufficient report is taken, and with none the state repeats. -/
theorem waitNeverCompletesEarly : Obligations.WaitNeverCompletesEarly := by
  intro s op k hc hm hk
  refine ⟨fun r rest hd hr => ?_, fun hd n => ?_⟩
  · rw [step_wait hc hm, waitStep, if_neg hk, hd]
    simp [Nat.not_le.2 hr]
  · have hstep : step s = .next s := by
      rw [step_wait hc hm, waitStep, if_neg hk, hd]
    induction n with
    | zero => rfl
    | succ n ih => rw [runSteps_succ_of_step hstep, ih]

/-- What a step in a wait leaves alone: all but the sequencer, the line trace and the reports (R18). -/
theorem waitStep_eq (len k : Nat) (s : State) :
    ∃ ds c p es, waitStep len k s = { s with delays := ds, cur := c, pc := p, lt := s.lt ++ es } ∧ es.length ≤ 1 := by
  rcases waitStep_cases len k s with ⟨ds, h, -⟩ | ⟨ds, h⟩
  · exact ⟨ds, s.cur, s.pc, [], by simp [h], by simp⟩
  · exact ⟨ds, _, _, [.wait k], by rw [h, waitDone, advance_eq], by simp⟩

/-- Settles O24: a wait moves the sequencer, the trace and the reports, a line write the lines and the trace. -/
theorem busyStepHoldsRequestsAndLatches : Obligations.BusyStepHoldsRequestsAndLatches := by
  intro s t hbusy h
  obtain ⟨op, hc⟩ := Option.ne_none_iff_exists'.1 hbusy
  rcases step_busy_block hc h with ⟨k, -, rfl⟩ | ⟨n, v, -, hblock, href, -⟩
  · obtain ⟨ds, c, p, es, e, -⟩ := waitStep_eq (s.expansion op).length k s
    simp [e]
  · simp only [State.block, advance_eq, BlockView.mk.injEq] at hblock
    obtain ⟨-, -, -, ha, hb, hc, hd, hi, -, hr, -⟩ := hblock
    exact ⟨hr, ha, hb, hc, hd, hi, href⟩

/-! Every step -/

/-- Settles O49: idle, marks are only added; busy, a wait leaves them and a line write only adds codes. -/
theorem marksAreNeverCleared : Obligations.MarksAreNeverCleared := by
  intro s t h
  cases hc : s.cur with
  | none =>
    obtain ⟨u, hu, hcases⟩ := step_idle hc
    obtain rfl := Host.Outcome.next.inj (hu.symm.trans h)
    rcases hcases with rfl | ⟨rest, rfl⟩ | ⟨rest, op, a, b, c, d, v, j, hv, hj, rfl⟩
    · exact ⟨ViolSet.subset_refl _, id, id⟩
    · exact ⟨ViolSet.subset_refl _, fun _ => rfl, id⟩
    · exact ⟨hv, id, hj⟩
  | some op =>
    have hbusy : s.cur ≠ none := by simp [hc]
    obtain ⟨-, -, -, -, -, hi, hr⟩ := busyStepHoldsRequestsAndLatches s t hbusy h
    refine ⟨?_, fun k => hr.trans k, fun k => hi.trans k⟩
    rcases step_busy_block hc h with ⟨k, -, rfl⟩ | ⟨n, v, -, -, -, hviol, -⟩
    · obtain ⟨ds, c, p, es, e, -⟩ := waitStep_eq (s.expansion op).length k s
      rw [e]
      exact ViolSet.subset_refl _
    · exact hviol

/-- Settles O50: the idle block leaves the traces, a wait appends at most its event, a line write its event and at
most the frame it closes. -/
theorem tracesOnlyGrow : Obligations.TracesOnlyGrow := by
  intro s t h
  cases hc : s.cur with
  | none =>
    obtain ⟨u, hu, hcases⟩ := step_idle hc
    obtain rfl := Host.Outcome.next.inj (hu.symm.trans h)
    rcases hcases with rfl | ⟨rest, rfl⟩ | ⟨rest, op, a, b, c, d, v, j, -, -, rfl⟩ <;> exact ⟨.inl rfl, .inl rfl⟩
  | some op =>
    rcases step_busy_block hc h with ⟨k, -, rfl⟩ | ⟨n, v, -, hblock, -, -, o, hft⟩
    · rcases waitStep_cases (s.expansion op).length k s with ⟨ds, e, -⟩ | ⟨ds, e⟩ <;> rw [e]
      · exact ⟨.inl rfl, .inl rfl⟩
      · rw [waitDone, advance_eq]
        exact ⟨.inr ⟨_, rfl⟩, .inl rfl⟩
    · have hlt := congrArg BlockView.lt hblock
      rw [advance_eq] at hlt
      refine ⟨.inr ⟨_, hlt⟩, ?_⟩
      cases o with
      | none => exact .inl (by simpa using hft)
      | some f => exact .inr ⟨f, hft⟩

end Sys2Proof.Machine
end

section
/-! PROOFS. What the block sees of a step depends on what the block sees of the state (10_state.md R20, R33;
60_exceptions.md R173), and the sequencer's invariant (10_state.md R25). -/

namespace Sys2Proof.Machine

theorem State.expansion_congr {s t : State} (h : s.block = t.block) (op : Operation) :
    s.expansion op = t.expansion op := by
  simp only [State.block, BlockView.mk.injEq] at h
  simp only [State.expansion, h]

theorem State.sequenced_congr {s t : State} (h : s.block = t.block) : s.sequenced ↔ t.sequenced := by
  have hcur : s.cur = t.cur := congrArg BlockView.cur h
  have hpc : s.pc = t.pc := congrArg BlockView.pc h
  unfold State.sequenced
  rw [hcur, hpc]
  cases t.cur with
  | none => rfl
  | some op => exact iff_of_eq (congrArg (t.pc < List.length ·) (State.expansion_congr h op))

theorem advance_block_congr (len : Nat) {s t : State} (h : s.block = t.block) :
    (advance len s).block = (advance len t).block := by
  simp only [State.block, BlockView.mk.injEq] at h
  simp only [advance_eq, State.block, h]

theorem waitStep_block_congr (len k : Nat) {s t : State} (h : s.block = t.block) :
    (waitStep len k s).block = (waitStep len k t).block := by
  have hdelays : s.delays = t.delays := congrArg BlockView.delays h
  simp only [State.block, BlockView.mk.injEq] at h
  unfold waitStep waitDone
  rw [hdelays]
  split
  · exact advance_block_congr len (by simp only [State.block, h])
  · split
    · simp only [State.block, h]
    · split
      · exact advance_block_congr len (by simp only [State.block, h])
      · simp only [State.block, h]

theorem operationChecks_block (op : Operation) (s : State) :
    (operationChecks op s).block = { s.block with inited := s.inited || op == .initDisplay } := by
  unfold operationChecks
  split
  · rename_i h
    simp [State.block, State.flagIf_eq, h]
  · rename_i h
    simp [State.block, State.flagIf_eq, h]

theorem accept_block_congr (op : Operation) (a b c d : Half) {s t : State} (h : s.block = t.block) :
    (accept op a b c d s).block = (accept op a b c d t).block := by
  have hcur : s.cur = t.cur := congrArg BlockView.cur h
  by_cases hc : s.cur = none
  · simp only [State.block, BlockView.mk.injEq] at h
    rw [accept_idle op a b c d hc, accept_idle op a b c d (hcur.symm.trans hc), operationChecks_block,
      operationChecks_block]
    simp only [State.block, h]
  · rw [accept_busy op a b c d hc, accept_busy op a b c d (hcur ▸ hc), h]

theorem refuse_block (s : State) : (refuse s).block = s.block := by
  rcases refuse_cases s with h | ⟨-, h⟩ <;> rw [h]
  rfl

/-- A request's meaning, as the block sees it, depends on what the block sees. -/
theorem exec_request_block_congr {i : Instr} (hi : i.isRequest = true) {s t : State} (h : s.block = t.block) :
    ∃ s' t', exec i s = .next s' ∧ exec i t = .next t' ∧ s'.block = t'.block := by
  cases i with
  | reservedReq => exact ⟨_, _, rfl, rfl, by rw [refuse_block, refuse_block, h]⟩
  | writeByte | writeCommand | writeData | initDisplay | setAddressWindow | drawPixel =>
    exact ⟨_, _, rfl, rfl, accept_block_congr _ _ _ _ _ h⟩
  | _ => cases hi

/-- Settles O48: idle, the two states are presented the same request; busy, they are at the same micro-operation. -/
theorem blockNeverDependsOnTheTracker : Obligations.BlockNeverDependsOnTheTracker := by
  intro s t h
  have hcur : s.cur = t.cur := congrArg BlockView.cur h
  have hpc : s.pc = t.pc := congrArg BlockView.pc h
  have hreq : s.requests = t.requests := congrArg BlockView.requests h
  cases hc : s.cur with
  | none =>
    refine .inl ?_
    have hrest (rest : List RequestWord) :
        State.block { s with requests := rest } = State.block { t with requests := rest } := by
      simp only [State.block, BlockView.mk.injEq] at h
      simp only [State.block, h]
    cases hr : s.requests with
    | nil => exact ⟨s, t, step_no_request hc hr, step_no_request (hcur ▸ hc) (hreq ▸ hr), h⟩
    | cons w rest =>
      cases hd : decodeRequest w with
      | rejected e =>
        exact ⟨_, _, step_request_rejected hc hr hd, step_request_rejected (hcur ▸ hc) (hreq ▸ hr) hd, hrest rest⟩
      | ok i =>
        rw [step_request_ok hc hr hd, step_request_ok (hcur ▸ hc) (hreq ▸ hr) hd]
        exact exec_request_block_congr (decodeRequest_isRequest hd) (hrest rest)
  | some op =>
    have hc' : t.cur = some op := hcur ▸ hc
    have hx : s.expansion op = t.expansion op := State.expansion_congr h op
    cases hm : (s.expansion op)[s.pc]? with
    | none => exact .inr ⟨step_past_end hc hm, step_past_end hc' (by rw [← hx, ← hpc, hm])⟩
    | some m =>
      have hm' : (t.expansion op)[t.pc]? = some m := by rw [← hx, ← hpc, hm]
      refine .inl ?_
      cases m with
      | wait k => exact ⟨_, _, step_wait hc hm, step_wait hc' hm', hx ▸ waitStep_block_congr _ k h⟩
      | set n v =>
        obtain ⟨s', hs', hb, -⟩ := step_set_block hc hm
        obtain ⟨t', ht', hb', -⟩ := step_set_block hc' hm'
        refine ⟨s', t', hs', ht', hb.trans (Eq.trans ?_ hb'.symm)⟩
        rw [hx]
        refine advance_block_congr _ ?_
        simp only [State.block, BlockView.mk.injEq] at h
        simp only [State.block, h]

/-! The sequencer's invariant -/

/-- From an index of the expansion the sequencer advances to an index or to idle (R25). -/
theorem advance_sequenced {s : State} {op : Operation} (hc : s.cur = some op)
    (hpc : s.pc < (s.expansion op).length) : (advance (s.expansion op).length s).sequenced := by
  rw [advance_eq]
  by_cases hend : s.pc + 1 = (s.expansion op).length
  · simp [State.sequenced, hend]
  · simp only [State.sequenced, hend, if_false, hc]
    change s.pc + 1 < (s.expansion op).length
    omega

/-- Settles O51: a wait repeats or advances, a line write advances, and an accepted operation has a first
micro-operation. -/
theorem sequencedStepNeverFaults : Obligations.SequencedStepNeverFaults := by
  intro s hs
  cases hc : s.cur with
  | none =>
    obtain ⟨t, ht, hcases⟩ := step_idle hc
    refine ⟨t, ht, ?_⟩
    rcases hcases with rfl | ⟨rest, rfl⟩ | ⟨rest, op, a, b, c, d, v, j, -, -, rfl⟩
    · exact hs
    · exact hs
    · exact expansion_pos build op a b c d
  | some op =>
    have hpc : s.pc < (s.expansion op).length := by
      unfold State.sequenced at hs
      rw [hc] at hs
      exact hs
    have hm := List.getElem?_eq_getElem hpc
    cases hmo : (s.expansion op)[s.pc] with
    | wait k =>
      rw [hmo] at hm
      refine ⟨_, step_wait hc hm, ?_⟩
      rcases waitStep_cases (s.expansion op).length k s with ⟨ds, e, -⟩ | ⟨ds, e⟩ <;> rw [e]
      · exact hs
      · exact advance_sequenced (s := { s with delays := ds, lt := s.lt ++ [.wait k] }) hc hpc
    | set n v =>
      rw [hmo] at hm
      obtain ⟨t, ht, hb, -⟩ := step_set_block hc hm
      refine ⟨t, ht, (State.sequenced_congr hb).2 ?_⟩
      exact advance_sequenced (s := { s with lines := s.lines.put n v, lt := s.lt ++ [.set n v] }) hc hpc

end Sys2Proof.Machine
end

section
/-! PROOFS. The composed operations as lists of frames (30_encoding.md R83; 41_protocol.md R120 to R132), and which
lines an expansion writes (10_state.md R23). -/

namespace Sys2Proof.Machine

/-- The frames of an address-set command with its two values (R130). -/
def addressFrames (o : Byte) (a b : Half) : List Frame :=
  [⟨false, o⟩, ⟨true, hi8 a⟩, ⟨true, lo8 a⟩, ⟨true, hi8 b⟩, ⟨true, lo8 b⟩]

/-- The frames of a window-set (R130). -/
def windowFrames (rowStart rowEnd colStart colEnd : Half) : List Frame :=
  addressFrames 0x2A rowStart rowEnd ++ addressFrames 0x2B colStart colEnd ++ [⟨false, 0x2C⟩]

theorem setAddressWindowOps_eq (rs re cs ce : Half) :
    setAddressWindowOps rs re cs ce = (windowFrames rs re cs ce).flatMap frameOps := by
  simp [setAddressWindowOps, windowFrames, addressFrames, commandOps, halfOps, dataOps]

theorem drawPixelOps_eq (x y c : Half) :
    drawPixelOps x y c =
      (windowFrames y (inc16 y) x (inc16 x) ++ ([⟨true, hi8 c⟩, ⟨true, lo8 c⟩] : List Frame)).flatMap frameOps := by
  simp [drawPixelOps, setAddressWindowOps_eq, halfOps, dataOps]

theorem mem_byteBody {n : Line} {v : Level} {b : Byte} (h : .set n v ∈ byteBody b) : n = .clk ∨ n = .data := by
  obtain ⟨w, -, hw⟩ := List.mem_flatMap.1 h
  simp [cell] at hw
  tauto

/-- A frame drives neither the reset nor the backlight line. -/
theorem mem_frameOps {n : Line} {v : Level} {f : Frame} (h : .set n v ∈ frameOps f) : n ≠ .rst ∧ n ≠ .bl := by
  simp only [frameOps, List.mem_append, List.mem_cons, List.not_mem_nil, or_false, MicroOp.set.injEq] at h
  rcases h with ((⟨rfl, -⟩ | ⟨rfl, -⟩) | hb) | ⟨rfl, -⟩
  · exact ⟨nofun, nofun⟩
  · exact ⟨nofun, nofun⟩
  · rcases mem_byteBody hb with rfl | rfl <;> exact ⟨nofun, nofun⟩
  · exact ⟨nofun, nofun⟩

theorem mem_frames {n : Line} {v : Level} {fs : List Frame} (h : .set n v ∈ fs.flatMap frameOps) :
    n ≠ .rst ∧ n ≠ .bl := by
  obtain ⟨f, -, hf⟩ := List.mem_flatMap.1 h
  exact mem_frameOps hf

/-- The initialisation drives the backlight line high only (R121). -/
theorem mem_initDisplayOps_bl {v : Level} {p : Config.Params} (h : .set .bl v ∈ initDisplayOps p) : v = true := by
  have hno {fs : List Frame} (h : MicroOp.set .bl v ∈ fs.flatMap frameOps) : v = true := absurd rfl (mem_frames h).2
  have hno' {f : Frame} (h : MicroOp.set .bl v ∈ frameOps f) : v = true := absurd rfl (mem_frameOps h).2
  rw [initDisplayOps_eq] at h
  simp only [List.mem_append] at h
  rcases h with (hidle | hpulse) | ((hframes | hwait) | hon) | heager
  · obtain ⟨n, -, hn⟩ := List.mem_map.1 hidle
    cases hn
    rfl
  · simp at hpulse
  · exact hno hframes
  · simp at hwait
  · exact hno' hon
  · split at heager
    · exact hno' heager
    · cases heager

/-- Which lines an expansion writes. -/
theorem mem_expansion {p : Config.Params} {op : Operation} {a b c d : Half} {n : Line} {v : Level}
    (h : .set n v ∈ expansion p op a b c d) :
    (op = .writeByte → n = .clk ∨ n = .data) ∧ (op ≠ .initDisplay → n ≠ .rst ∧ n ≠ .bl) ∧ (n = .bl → v = true) := by
  have hframes (fs : List Frame) (hop : op ≠ .writeByte) (hf : .set n v ∈ fs.flatMap frameOps) :
      (op = .writeByte → n = .clk ∨ n = .data) ∧ (op ≠ .initDisplay → n ≠ .rst ∧ n ≠ .bl) ∧ (n = .bl → v = true) :=
    ⟨fun h => absurd h hop, fun _ => mem_frames hf, fun h => absurd h (mem_frames hf).2⟩
  cases op with
  | writeByte =>
    have hn := mem_byteBody h
    refine ⟨fun _ => hn, fun _ => ?_, ?_⟩ <;> rcases hn with rfl | rfl <;> simp
  | writeCommand => exact hframes [⟨false, lo8 a⟩] nofun (List.mem_append_left _ h)
  | writeData => exact hframes [⟨true, lo8 a⟩] nofun (List.mem_append_left _ h)
  | setAddressWindow => exact hframes _ nofun (by rw [← setAddressWindowOps_eq]; exact h)
  | drawPixel => exact hframes _ nofun (by rw [← drawPixelOps_eq]; exact h)
  | initDisplay => exact ⟨nofun, fun h => absurd rfl h, fun hn => mem_initDisplayOps_bl (hn ▸ h)⟩

/-- Settles O25: a step writes at most the line of the micro-operation at `pc`. -/
theorem eachOperationWritesItsOwnLines : Obligations.EachOperationWritesItsOwnLines := by
  intro s t h
  cases hc : s.cur with
  | none =>
    have hlines : t.lines = s.lines := by
      obtain ⟨u, hu, hcases⟩ := step_idle hc
      obtain rfl := Host.Outcome.next.inj (hu.symm.trans h)
      rcases hcases with rfl | ⟨rest, rfl⟩ | ⟨rest, op, a, b, c, d, v, j, -, -, rfl⟩ <;> rfl
    rw [hlines]
    exact ⟨fun _ => rfl, nofun, fun _ => ⟨rfl, rfl⟩, .inl rfl, fun _ hn => hn⟩
  | some op =>
    rcases step_busy_block hc h with ⟨k, -, rfl⟩ | ⟨n, v, hm, hblock, -⟩
    · obtain ⟨ds, c, p, es, e, -⟩ := waitStep_eq (s.expansion op).length k s
      rw [e]
      exact ⟨nofun, fun _ _ _ _ => rfl, fun _ => ⟨rfl, rfl⟩, .inl rfl, fun _ hn => hn⟩
    · have hlines : t.lines = s.lines.put n v := by
        rw [advance_eq] at hblock
        exact congrArg BlockView.lines hblock
      have hget {m : Line} (hmn : m ≠ n) : t.lines.get m = s.lines.get m := by
        rw [hlines, Lines.get_put_other _ _ hmn]
      obtain ⟨hbyte, hother, hbl⟩ := mem_expansion (List.mem_of_getElem? hm)
      refine ⟨nofun, fun hop m h1 h2 => hget ?_, fun hop => ?_, ?_, fun m hnone => ?_⟩
      · rcases hbyte (Option.some.inj hop) with rfl | rfl <;> assumption
      · obtain ⟨hrst, hbl⟩ := hother fun e => hop (e ▸ rfl)
        exact ⟨hget (m := .rst) hrst.symm, hget (m := .bl) hbl.symm⟩
      · by_cases hn : n = .bl
        · subst n
          exact .inr (by rw [hlines, hbl rfl]; rfl)
        · exact .inl (hget (m := .bl) (Ne.symm hn))
      · by_cases hmn : m = n
        · rw [hmn, hlines, Lines.get_put_same] at hnone
          cases hnone
        · exact hget hmn ▸ hnone

end Sys2Proof.Machine
end

section
/-! PROOFS. The receiver's and the reset line's answers to a line write (30_encoding.md R84; 42_controller_commands.md
R141). -/

namespace Sys2Proof.Machine

/-- Settles O26: written low from another level chip-select opens a frame, written low again it is no event. -/
theorem chipSelectFallOpensAFrame : Obligations.ChipSelectFallOpensAFrame := by
  intro s t
  by_cases hcs : s.lines.cs = some false
  · have hw : lineWrite .cs false s = (s.wrote .cs false, none) :=
      lineWrite_of_receive rfl (if_neg (not_not.2 hcs))
    simp [t, hw, hcs, State.wrote]
  · have hw : lineWrite .cs false s = ((openFrame s).wrote .cs false, none) := lineWrite_of_receive rfl (if_pos hcs)
    simp [t, hw, hcs, State.wrote, openFrame]

/-! The sample -/

/-- The frame is spoiled, and nothing but `V_FRAME` has been added to the codes `v`. -/
def State.spoiled (v : ViolSet) (s : State) : Prop := s.rxBad = true ∧ s.viol = v.add .frame

theorem sampleMode_spoiled {v : ViolSet} {s : State} (h : s.spoiled v) : (sampleMode s).spoiled v := by
  obtain ⟨hbad, hviol⟩ := h
  unfold sampleMode
  split
  · obtain ⟨d, hd⟩ := readLevel_state s.lines.rs s
    exact ⟨by rw [hd]; exact hbad, by rw [hd]; exact hviol⟩
  · split
    · exact ⟨rfl, by rw [badFrame, State.flag_viol, hviol, ViolSet.add_add]⟩
    · exact ⟨hbad, hviol⟩

theorem sampleData_spoiled {v : ViolSet} {s : State} (h : s.spoiled v) : (sampleData s).spoiled v := by
  obtain ⟨d, hd⟩ := readLevel_state s.lines.data s
  rw [sampleData, hd]
  exact h

/-- An undriven line or a changed mode spoils the frame (R84). -/
theorem sample_spoiled {s : State}
    (h : s.lines.data = none ∨ s.lines.rs = none ∨ (s.rxRs ≠ none ∧ s.rxRs ≠ s.lines.rs)) :
    (sample s).spoiled s.viol := by
  refine sampleData_spoiled ?_
  by_cases hdriven : s.lines.data = none ∨ s.lines.rs = none
  · refine sampleMode_spoiled ?_
    rw [checkDriven, if_pos hdriven]
    exact ⟨rfl, rfl⟩
  · have hchanged : s.rxRs ≠ none ∧ s.rxRs ≠ s.lines.rs := by tauto
    rw [checkDriven, if_neg hdriven, sampleMode, if_neg hchanged.1, if_pos hchanged.2]
    exact ⟨rfl, rfl⟩

/-- Settles O27: the write is a sample exactly under a low clock and a low chip-select. -/
theorem risingClockSamplesUnderChipSelect : Obligations.RisingClockSamplesUnderChipSelect := by
  intro s t
  refine ⟨fun hlow => ?_, fun hnot => ?_⟩
  · have hw : lineWrite .clk true s = ((sample s).wrote .clk true, none) := lineWrite_of_receive rfl (if_pos hlow)
    have ht : t = (sample s).wrote .clk true := congrArg Prod.fst hw
    obtain ⟨r, b, x, v, d, hs, -⟩ := sample_eq s
    refine ⟨fun v m hd hm hrx => ?_, fun hbad => ?_, ?_, ?_⟩
    · rw [ht, sample_good hd hm hrx]
      exact ⟨rfl, rfl, rfl, rfl⟩
    · obtain ⟨hrx, hviol⟩ := sample_spoiled hbad
      exact ⟨by rw [ht]; exact hrx, by rw [ht]; exact hviol, by rw [ht, hs]; simp [State.wrote]⟩
    · rw [ht, hs]
      rfl
    · rw [ht, hs]
      rfl
  · have hw : lineWrite .clk true s = (s.wrote .clk true, none) := lineWrite_of_receive rfl (if_neg hnot)
    simp [t, hw, State.wrote, State.receiver]

/-! The close -/

/-- A frame that is not eight good bits: no frame, and `V_FRAME` unless nothing was sampled (R84). -/
theorem closeFrame_bad {s : State} (h : ¬(s.rxBits.length = 8 ∧ s.rxBad = false)) :
    closeFrame s =
      ({ s with viol := if s.rxBits = [] then s.viol else s.viol.add .frame, rxOpen := false }, none) := by
  rw [closeFrame, if_neg h, State.flagIf_eq]
  cases hb : s.rxBits <;> simp

/-- Settles O28: the two branches of the close, and what the second flags. -/
theorem chipSelectRiseClosesTheFrame : Obligations.ChipSelectRiseClosesTheFrame := by
  intro s hcs t
  have hw : lineWrite .cs true s = ((closeFrame s).1.wrote .cs true, (closeFrame s).2) :=
    lineWrite_of_receive rfl (if_pos hcs)
  have ht : t = (closeFrame s).1.wrote .cs true := congrArg Prod.fst hw
  refine ⟨?_, fun m hlen hgood hm => ?_, fun hnil => ?_, fun hne hbad => ?_⟩
  · rw [ht]
    rcases closeFrame_cases s with ⟨f, d, e, -⟩ | ⟨v, e, -⟩ <;> rw [e] <;> rfl
  · have hgood := lineWrite_csRise_good hcs hlen hgood hm
    rw [show t = _ from congrArg Prod.fst hgood, hgood]
    exact ⟨rfl, rfl, rfl⟩
  · rw [ht, hw, closeFrame_bad (by simp [hnil])]
    simp [State.wrote, hnil]
  · have hnot : ¬(s.rxBits.length = 8 ∧ s.rxBad = false) := by
      rintro ⟨h8, hg⟩
      rcases hbad with h | h
      · exact h h8
      · simp [hg] at h
    rw [ht, hw, closeFrame_bad hnot]
    simp [State.wrote, hne]

/-! The reset line -/

/-- A write of the reset line is no event of the receiver. -/
theorem lineWrite_rst (v : Level) (s : State) : lineWrite .rst v s = ((trackReset .rst v s).wrote .rst v, none) :=
  rfl

/-- Settles O31: a fall clears the tracker, a rise in `Uninit` wakes it, and a level written again is no event. -/
theorem resetPulseClearsAndReleasesTheTracker : Obligations.ResetPulseClearsAndReleasesTheTracker := by
  intro s
  simp only [lineWrite_rst]
  refine ⟨fun h => ?_, fun h hp => ?_, fun h => ?_, fun h => ?_⟩
  · rw [show trackReset .rst false s = resetFall s from if_pos h]
    rfl
  · rw [show trackReset .rst true s = { s with phase := .sleeping } from (if_pos h).trans (if_pos hp)]
    rfl
  · rw [show trackReset .rst true s = s from if_neg h]
    rfl
  · rw [show trackReset .rst false s = s from if_neg (not_not.2 h)]
    rfl

end Sys2Proof.Machine
end

section
/-! PROOFS. The invariants of the receiver, of GRAM and of the traces: one principle for all steps, then what a line
write and a closed frame keep (10_state.md R34; 20_memory.md R50; 30_encoding.md R84). -/

namespace Sys2Proof.Machine

/-- `s` with the sequencer, the latches, the marks and the inputs of `u`. -/
def State.withControl (s u : State) : State :=
  { s with
    cur := u.cur, pc := u.pc, latchA := u.latchA, latchB := u.latchB, latchC := u.latchC, latchD := u.latchD
    inited := u.inited, viol := u.viol, refused := u.refused, requests := u.requests, delays := u.delays }

/-- What is kept by every control move, by the event of a wait, by every line write and by every frame taken, is kept
by every step. -/
theorem step_keeps {P : State → Prop} (hcontrol : ∀ s u, P s → P (State.withControl s u))
    (hwait : ∀ s k, P s → P { s with lt := s.lt ++ [.wait k] }) (hwrite : ∀ n v s, P s → P (lineWrite n v s).1)
    (hframe : ∀ f s, P s → P (takeFrame f s)) {s t : State} (hs : P s) (h : step s = .next t) : P t := by
  have hmove {s u : State} (e : u = s.withControl u) (hs : P s) : P u := (congrArg P e).mpr (hcontrol s u hs)
  cases hc : s.cur with
  | none =>
    obtain ⟨u, hu, hcases⟩ := step_idle hc
    obtain rfl := Host.Outcome.next.inj (hu.symm.trans h)
    refine hmove ?_ hs
    rcases hcases with rfl | ⟨rest, rfl⟩ | ⟨rest, op, a, b, c, d, v, j, -, -, rfl⟩ <;> rfl
  | some op =>
    have hadvance (len : Nat) (u : State) (hu : P u) : P (advance len u) := by
      rw [advance_eq]
      exact hmove rfl hu
    rcases step_busy_cases hc h with ⟨k, -, rfl⟩ | ⟨n, v, -, rfl⟩
    · rcases waitStep_cases (s.expansion op).length k s with ⟨ds, e, -⟩ | ⟨ds, e⟩ <;> rw [e]
      · exact hmove rfl hs
      · exact hadvance _ _ (hwait _ k (hmove rfl hs))
    · refine hadvance _ _ ?_
      unfold performSet
      split
      · exact hwrite n v s hs
      · exact hframe _ _ (hwrite n v s hs)

/-! The receiver -/

theorem trackReset_receiver (n : Line) (v : Level) (s : State) : (trackReset n v s).receiver = s.receiver := by
  rcases trackReset_cases n v s with ⟨e, -⟩ | ⟨-, -, -, e⟩ | ⟨-, -, -, -, e⟩ | ⟨-, -, -, -, e⟩ <;> rw [e] <;> rfl

theorem takeFrame_receiver (f : Frame) (s : State) : (takeFrame f s).receiver = s.receiver := by
  rw [takeFrame_eq_graft]
  rfl

theorem State.ReceiverOk.congr {s t : State} (h : s.ReceiverOk) (e : t.receiver = s.receiver) : t.ReceiverOk := by
  simp only [State.receiver, ReceiverView.mk.injEq] at e
  obtain ⟨hlines, hopen, hrs, hbits, -⟩ := e
  exact ⟨by rw [hopen, hlines]; exact h.openWhileSelected, by rw [hrs, hbits]; exact h.modeWithBits⟩

/-- The receiver's invariant after its answer to a line write and the register's change (R84). -/
theorem receive_receiverOk (n : Line) (v : Level) {s : State} (h : s.ReceiverOk) :
    State.ReceiverOk { (receive n v s).1 with lines := s.lines.put n v } := by
  have hquiet (hn : n ≠ .cs) (hr : (receive n v s).1 = s) :
      State.ReceiverOk { (receive n v s).1 with lines := s.lines.put n v } := by
    rw [hr]
    refine ⟨?_, h.modeWithBits⟩
    rw [show (s.lines.put n v).cs = s.lines.cs from Lines.get_put_other _ v hn.symm]
    exact h.openWhileSelected
  cases n with
  | rst => exact hquiet nofun rfl
  | rs => exact hquiet nofun rfl
  | data => exact hquiet nofun rfl
  | bl => exact hquiet nofun rfl
  | clk =>
    cases v with
    | false => exact hquiet nofun rfl
    | true =>
      by_cases hlow : s.lines.clk = some false ∧ s.lines.cs = some false
      · obtain ⟨r, b, x, w, d, e, -⟩ := sample_eq s
        rw [show receive .clk true s = (sample s, none) from if_pos hlow, e]
        exact ⟨h.openWhileSelected, nofun⟩
      · exact hquiet nofun (by rw [show receive .clk true s = (s, none) from if_neg hlow])
  | cs =>
    by_cases hlow : s.lines.cs = some false
    · cases v with
      | false =>
        rw [show receive .cs false s = (s, none) from if_neg (not_not.2 hlow)]
        exact ⟨iff_of_true (h.openWhileSelected.2 hlow) rfl, h.modeWithBits⟩
      | true =>
        rw [show receive .cs true s = closeFrame s from if_pos hlow]
        rcases closeFrame_cases s with ⟨f, d, e, -⟩ | ⟨w, e, -⟩ <;> rw [e]
        · exact ⟨iff_of_false nofun nofun, h.modeWithBits⟩
        · exact ⟨iff_of_false nofun nofun, h.modeWithBits⟩
    · cases v with
      | false =>
        rw [show receive .cs false s = (openFrame s, none) from if_pos hlow]
        exact ⟨iff_of_true rfl rfl, fun _ => rfl⟩
      | true =>
        rw [show receive .cs true s = (s, none) from if_neg hlow]
        exact ⟨iff_of_false (fun ho => hlow (h.openWhileSelected.1 ho)) nofun, h.modeWithBits⟩

/-- Settles O53: only line writes move the receiver, and each keeps its invariant. -/
theorem stepKeepsTheReceiverConsistent : Obligations.StepKeepsTheReceiverConsistent := by
  intro s t hs h
  refine step_keeps (P := State.ReceiverOk) (fun s u hs => ⟨hs.openWhileSelected, hs.modeWithBits⟩)
    (fun s k hs => ⟨hs.openWhileSelected, hs.modeWithBits⟩) (fun n v s hs => ?_)
    (fun f s hs => hs.congr (takeFrame_receiver f s)) hs h
  have hr := receive_receiverOk n v (hs.congr (trackReset_receiver n v s))
  refine hr.congr ?_
  obtain ⟨o, r, b, x, w, fs, d, e, -⟩ := receive_frame n v (trackReset n v s)
  simp [lineWrite, State.receiver, e]

/-! GRAM -/

theorem takeFrame_gramOk (f : Frame) {s : State} (h : s.gramOk) : (takeFrame f s).gramOk := by
  unfold takeFrame
  split
  · rcases takeData_cases f.byte s with k | ⟨g, -, -, -, e⟩
    · exact (congrArg Memory.wf k.gram).mpr h
    · rw [e]
      exact storePixel_gram_wf _ h
  · exact (congrArg Memory.wf (takeCommand_trackerOnly _ _ (commandRule_trackerOnly _) s).gram).mpr h

/-- Settles O54: only a completed pixel and a reset pulse write GRAM, and both write it pixel by pixel. -/
theorem stepKeepsGramCanonical : Obligations.StepKeepsGramCanonical := by
  intro s t hs h
  refine step_keeps (P := State.gramOk) (fun s u hs => hs) (fun s k hs => hs) (fun n v s hs => ?_)
    (fun f s hs => takeFrame_gramOk f hs) hs h
  obtain ⟨-, -, hgram, -⟩ := lineWrite_block n v s
  rcases hgram with e | ⟨-, -, -, e⟩
  · exact (congrArg Memory.wf e).mpr hs
  · exact (congrArg Memory.wf e).mpr (freeGram_gram_wf s)

/-! The traces -/

theorem sample_receiver_congr {s u : State} (h : s.receiver = u.receiver) :
    (sample s).receiver = (sample u).receiver := by
  have hdriven {s u : State} (h : s.receiver = u.receiver) : (checkDriven s).receiver = (checkDriven u).receiver := by
    simp only [State.receiver, ReceiverView.mk.injEq] at h
    simp only [checkDriven, h]
    split <;> simp [State.receiver, badFrame, h]
  have hmode {s u : State} (h : s.receiver = u.receiver) : (sampleMode s).receiver = (sampleMode u).receiver := by
    simp only [State.receiver, ReceiverView.mk.injEq] at h
    simp only [sampleMode, h]
    split
    · cases u.lines.rs <;> simp [State.receiver, readLevel, h]
    · split <;> simp [State.receiver, badFrame, h]
  have hdata {s u : State} (h : s.receiver = u.receiver) : (sampleData s).receiver = (sampleData u).receiver := by
    simp only [State.receiver, ReceiverView.mk.injEq] at h
    simp only [sampleData, h]
    cases u.lines.data <;> simp [State.receiver, readLevel, h]
  exact hdata (hmode (hdriven h))

theorem closeFrame_receiver_congr {s u : State} (h : s.receiver = u.receiver) :
    (closeFrame s).1.receiver = (closeFrame u).1.receiver := by
  simp only [State.receiver, ReceiverView.mk.injEq] at h
  simp only [closeFrame, h]
  split
  · cases u.rxRs <;> simp [State.receiver, readLevel, h]
  · simp [State.receiver, State.flagIf_eq, h]

/-- The receiver's answer depends on the receiver's part of the state only (R84). -/
theorem receive_receiver_congr (n : Line) (v : Level) {s u : State} (h : s.receiver = u.receiver) :
    (receive n v s).1.receiver = (receive n v u).1.receiver := by
  have hlines : s.lines = u.lines := congrArg ReceiverView.lines h
  unfold receive
  split
  · rw [hlines]
    split
    · simp only [State.receiver, ReceiverView.mk.injEq] at h
      simp [State.receiver, openFrame, h]
    · exact h
  · rw [hlines]
    split
    · exact sample_receiver_congr h
    · exact h
  · rw [hlines]
    split
    · exact closeFrame_receiver_congr h
    · exact h
  all_goals exact h

theorem lineWrite_receiver_congr (n : Line) (v : Level) {s u : State} (h : s.receiver = u.receiver) :
    (lineWrite n v s).1.receiver = (lineWrite n v u).1.receiver := by
  have htrack : (trackReset n v s).receiver = (trackReset n v u).receiver := by
    rw [trackReset_receiver, trackReset_receiver, h]
  have hr := receive_receiver_congr n v htrack
  simp only [State.receiver, ReceiverView.mk.injEq] at hr
  simp only [lineWrite, State.receiver, hr]

/-- Settles O55: a wait is no event for the receiver, a line write is played to it, and a frame's meaning leaves it. -/
theorem frameTraceIsReadFromTheLineTrace : Obligations.FrameTraceIsReadFromTheLineTrace := by
  intro s t hs h
  refine step_keeps (P := State.receivedFromTrace) (fun s u hs => hs) (fun s k hs => ?_) (fun n v s hs => ?_)
    (fun f s hs => ?_) hs h
  · obtain ⟨d, hd⟩ := hs
    refine ⟨d, hd.trans ?_⟩
    simp [replay, replayEvent]
  · obtain ⟨d, hd⟩ := hs
    refine ⟨d, ?_⟩
    have hlt : (lineWrite n v s).1.lt = s.lt ++ [.set n v] := congrArg BlockView.lt (lineWrite_block n v s).1
    rw [hlt, replay, List.foldl_append]
    exact lineWrite_receiver_congr n v hd
  · have hlt : (takeFrame f s).lt = s.lt := by rw [takeFrame_eq_graft]; rfl
    obtain ⟨d, hd⟩ := hs
    exact ⟨d, by rw [takeFrame_receiver, hlt, hd]⟩

end Sys2Proof.Machine
end

section
/-! PROOFS. The tracker's invariant (10_state.md R30 to R32; 42_controller_commands.md R140 to R153): kept by the reset
line, by the part common to all commands, by each command's rule, and by each kind of data frame. -/

namespace Sys2Proof.Machine

/-- The fields that the tracker's invariant speaks of. -/
def State.trackerFields (s : State) :=
  (s.lines.rst, s.phase, s.win, s.mac, s.cmd, s.need, s.acc, s.caDone, s.slpout, s.fmt16, s.half, s.npix)

theorem State.TrackerOk.congr {s t : State} (h : s.TrackerOk) (e : t.trackerFields = s.trackerFields) :
    t.TrackerOk := by
  simp only [State.trackerFields, Prod.mk.injEq] at e
  obtain ⟨hrst, hphase, hwin, hmac, hcmd, hneed, hacc, hcols, hslp, hfmt, hhalf, hnpix⟩ := e
  constructor
  case cleared => simpa only [State.trackerCleared, hphase, hwin, hmac, hcmd, hneed, hacc, hcols, hslp, hfmt, hhalf,
    hnpix] using h.cleared
  case resetLow => simpa only [hrst, hphase] using h.resetLow
  case owesNothing => simpa only [hcmd, hneed] using h.owesNothing
  case owesRest => simpa only [hcmd, hneed, hacc] using h.owesRest
  case accBound => simpa only [hacc] using h.accBound
  case halfInStream => simpa only [hhalf, hphase] using h.halfInStream
  case windowHeld => simpa only [hphase, hwin, hneed] using h.windowHeld
  case columnsBefore => simpa only [hcols, hphase] using h.columnsBefore
  case awakeAfterSleepOut => simpa only [hphase, hslp] using h.awakeAfterSleepOut

theorem State.TrackerOk.flag {s : State} (h : s.TrackerOk) (c : Violation) : (s.flag c).TrackerOk := h.congr rfl

theorem State.TrackerOk.flagIf {s : State} (h : s.TrackerOk) (p : Bool) (c : Violation) : (s.flagIf p c).TrackerOk := by
  unfold State.flagIf
  split
  · exact h.flag c
  · exact h

/-! The reset line -/

/-- The tracker's answer to a line write and the register's change (R141). -/
theorem trackReset_trackerOk (n : Line) (v : Level) {s : State} (h : s.TrackerOk) :
    State.TrackerOk { trackReset n v s with lines := s.lines.put n v } := by
  rcases trackReset_cases n v s with ⟨e, hfall, -⟩ | ⟨rfl, rfl, -, e⟩ | ⟨rfl, rfl, hlow, hp, e⟩ |
    ⟨rfl, rfl, hlow, hp, e⟩
  · rw [e]
    refine ⟨h.cleared, fun hl => ?_, h.owesNothing, h.owesRest, h.accBound, h.halfInStream, h.windowHeld,
      h.columnsBefore, h.awakeAfterSleepOut⟩
    by_cases hn : n = .rst
    · subst n
      exact h.resetLow (hfall rfl (Option.some.inj hl))
    · exact h.resetLow ((Lines.get_put_other s.lines v (Ne.symm hn)).symm.trans hl)
  · rw [e]
    exact ⟨fun _ => ⟨rfl, rfl, rfl, rfl, rfl, rfl, rfl, rfl, rfl, rfl⟩, fun _ => rfl, fun _ => rfl, nofun,
      Nat.zero_le 4, fun hne => absurd rfl hne, nofun, fun hne => absurd rfl hne, nofun⟩
  · obtain ⟨-, -, hcmd, hneed, hacc, hcols, -, -, hhalf, -⟩ := h.cleared hp
    rw [e]
    exact ⟨nofun, nofun, fun _ => hneed, fun o ho => (by rw [hcmd] at ho; cases ho), h.accBound,
      fun hne => absurd hhalf hne, nofun, fun hne => absurd hcols hne, nofun⟩
  · exact absurd (h.resetLow hlow) hp

theorem lineWrite_trackerOk (n : Line) (v : Level) {s : State} (h : s.TrackerOk) :
    (lineWrite n v s).1.TrackerOk := by
  have hlines : (trackReset n v s).lines = s.lines := congrArg ReceiverView.lines (trackReset_receiver n v s)
  have hk := trackReset_trackerOk n v h
  obtain ⟨o, r, b, x, w, fs, d, e, -⟩ := receive_frame n v (trackReset n v s)
  simp only [lineWrite, e, hlines]
  exact hk.congr rfl

/-! Data frames -/

theorem parameterCount_le (o : Byte) : parameterCount o ≤ 4 := by
  unfold parameterCount
  split_ifs <;> decide

/-- While bytes are owed a command is being collected. -/
theorem State.TrackerOk.collecting {s : State} (h : s.TrackerOk) (hn : 0 < s.need) :
    ∃ o, s.cmd = some o ∧ s.acc.length + s.need = parameterCount o := by
  cases hc : s.cmd with
  | none => exact absurd (h.owesNothing hc) (by omega)
  | some o => exact ⟨o, rfl, (h.owesRest o hc).2⟩

/-- While bytes are owed no window is set and no stream is open. -/
theorem State.TrackerOk.phase_of_owing {s : State} (h : s.TrackerOk) (hu : s.phase ≠ .uninit) (hn : 0 < s.need) :
    s.phase = .sleeping ∨ s.phase = .awakeIdle := by
  have hw : ¬(s.phase = .windowed ∨ s.phase = .writing) := fun hw => by
    have := (h.windowHeld hw).2
    omega
  cases hp : s.phase with
  | uninit => exact absurd hp hu
  | sleeping => exact .inl rfl
  | awakeIdle => exact .inr rfl
  | windowed => exact absurd (.inl hp) hw
  | writing => exact absurd (.inr hp) hw

theorem State.TrackerOk.collect {s : State} (h : s.TrackerOk) (b : Byte) (hn : 1 < s.need) :
    State.TrackerOk { s with acc := s.acc ++ [b], need := s.need - 1 } := by
  obtain ⟨o, ho, hcount⟩ := h.collecting (by omega)
  have hle := parameterCount_le o
  refine ⟨fun hp => absurd (h.cleared hp).2.2.2.1 (by omega), h.resetLow, fun hc => ?_, fun o' ho' => ?_, ?_,
    h.halfInStream, fun hw => absurd (h.windowHeld hw).2 (by omega), h.columnsBefore, h.awakeAfterSleepOut⟩
  · have hc : s.cmd = none := hc
    rw [ho] at hc
    cases hc
  · obtain rfl : o' = o := Option.some.inj (ho'.symm.trans ho)
    simp
    omega
  · simp
    omega

/-- The last byte owed is taken and the command is over, whatever its completion then does. -/
theorem State.TrackerOk.lastByte {s : State} (h : s.TrackerOk) (b : Byte) (hn : s.need = 1) :
    State.TrackerOk { lastByte b s with cmd := none } := by
  obtain ⟨o, -, hcount⟩ := h.collecting (by omega)
  have hle := parameterCount_le o
  refine ⟨fun hp => absurd (h.cleared hp).2.2.2.1 (by omega), h.resetLow, fun _ => rfl, nofun, ?_,
    h.halfInStream, fun hw => absurd (h.windowHeld hw).2 (by omega), h.columnsBefore, h.awakeAfterSleepOut⟩
  simp [Machine.lastByte]
  omega

/-- A command's completion keeps the invariant, from a phase in which bytes can be owed. -/
theorem State.TrackerOk.complete {s : State} (h : State.TrackerOk { s with cmd := none }) (b : Byte)
    (hp : s.phase = .sleeping ∨ s.phase = .awakeIdle) (hn : s.need = 0) :
    State.TrackerOk { completeCommand b s with cmd := none } := by
  have hu : s.phase ≠ .uninit := by rcases hp with h | h <;> simp [h]
  unfold completeCommand
  split_ifs
  · exact ⟨fun k => absurd k hu, h.resetLow, h.owesNothing, nofun, h.accBound, h.halfInStream, h.windowHeld,
      h.columnsBefore, h.awakeAfterSleepOut⟩
  · exact ⟨fun k => absurd k hu, h.resetLow, h.owesNothing, nofun, h.accBound, h.halfInStream, h.windowHeld,
      h.columnsBefore, h.awakeAfterSleepOut⟩
  · exact ⟨fun k => absurd k hu, h.resetLow, h.owesNothing, nofun, h.accBound, h.halfInStream, h.windowHeld,
      fun _ => hp, h.awakeAfterSleepOut⟩
  · by_cases hset : s.caDone ≠ none ∧ s.phase = .awakeIdle
    · obtain ⟨hcols, hidle⟩ := hset
      obtain ⟨⟨cs, ce⟩, hcols⟩ := Option.ne_none_iff_exists'.1 hcols
      simp only [completePages, hcols, hidle]
      have hhalf : s.half = none := by
        by_contra hne
        exact absurd (h.halfInStream hne) (by simp [hidle])
      exact ⟨nofun, fun hl => absurd (h.resetLow hl) hu, fun _ => hn, nofun, h.accBound, fun hne => absurd hhalf hne,
        fun _ => ⟨nofun, hn⟩, fun hne => absurd rfl hne, fun _ => h.awakeAfterSleepOut (.inl hidle)⟩
    · rw [completePages_of_not (by tauto)]
      exact h
  · exact h

theorem takeData_trackerOk (b : Byte) {s : State} (h : s.TrackerOk) : (takeData b s).TrackerOk := by
  by_cases hu : s.phase = .uninit
  · rw [takeData, if_pos hu]
    exact h.flag _
  rcases Nat.lt_trichotomy s.need 1 with hn | hn | hn
  · have hn : s.need = 0 := by omega
    by_cases hw : s.phase = .writing
    · rw [takeData_pixel b hw hn]
      cases hh : s.half with
      | none =>
        rw [takePixel_first b hh]
        exact ⟨fun k => absurd k hu, h.resetLow, h.owesNothing, h.owesRest, h.accBound, fun _ => hw, h.windowHeld,
          h.columnsBefore, h.awakeAfterSleepOut⟩
      | some g =>
        rw [takePixel_second b hh]
        exact ⟨fun k => absurd k hu, h.resetLow, h.owesNothing, h.owesRest, h.accBound, fun hne => absurd rfl hne,
          h.windowHeld, h.columnsBefore, h.awakeAfterSleepOut⟩
    · rw [takeData_eq_takeStray b hu hn hw]
      exact h.flag _
  · rw [takeData_complete hu hn rfl]
    exact (h.lastByte b hn).complete b (h.phase_of_owing hu (by omega)) rfl
  · rw [takeData_collect b hu hn]
    exact h.collect b hn

/-! Command frames -/

/-- What holds between the common part of a command and its own rule (R142). -/
structure CommonDone (o : Byte) (c : State) : Prop where
  ok : c.TrackerOk
  notUninit : c.phase ≠ .uninit
  notWriting : c.phase ≠ .writing
  windowed : c.phase = .windowed → o = 0x2C
  noCommand : c.cmd = none
  owesNone : c.need = 0
  noHalf : c.half = none

/-- Where the common part of a command leaves the phase (R142). -/
theorem commandCommon_phase_cases (o : Byte) {s : State} (hu : s.phase ≠ .uninit) :
    ((s.phase = .sleeping ∨ s.phase = .awakeIdle) ∧ (commandCommon o s).phase = s.phase) ∨
    ((s.phase = .windowed ∨ s.phase = .writing) ∧ (commandCommon o s).phase = .awakeIdle) ∨
    (s.phase = .windowed ∧ o = 0x2C ∧ (commandCommon o s).phase = .windowed) := by
  rw [commandCommon_phase]
  cases hp : s.phase with
  | uninit => exact absurd hp hu
  | sleeping | awakeIdle | writing => simp
  | windowed =>
    by_cases ho : o = 0x2C
    · simp [ho]
    · exact .inr (.inl ⟨.inl rfl, if_pos (.inr ⟨rfl, ho⟩)⟩)

theorem commandCommon_done (o : Byte) {s : State} (h : s.TrackerOk) (hu : s.phase ≠ .uninit) :
    CommonDone o (commandCommon o s) := by
  have hphase := commandCommon_phase_cases o hu
  have hc := commandFrameEndsWhatWasOpen o s
  generalize commandCommon o s = c at hphase hc ⊢
  have hneed : c.need = 0 := by rw [hc]
  have hhalf : c.half = none := by rw [hc]
  have hcmd : c.cmd = none := by
    rw [hc]
    by_contra hne
    obtain ⟨hn, hne⟩ : ¬s.need > 0 ∧ s.cmd ≠ none := by simpa using hne
    obtain ⟨o', ho'⟩ := Option.ne_none_iff_exists'.1 hne
    exact hn (h.owesRest o' ho').1
  have hacc : c.acc.length ≤ 4 := by
    rw [hc]
    by_cases hn : s.need > 0
    · simp [hn]
    · simpa [hn] using h.accBound
  have hcols : c.caDone ≠ none → s.caDone ≠ none := by
    rw [hc]
    by_cases ho : o = 0x2B <;> simp [ho]
  have hlines : c.lines = s.lines := by rw [hc]
  have hwin : c.win = s.win := by rw [hc]
  have hslp : c.slpout = s.slpout := by rw [hc]
  have hnotUninit : c.phase ≠ .uninit := by
    rcases hphase with ⟨-, hp⟩ | ⟨-, hp⟩ | ⟨-, -, hp⟩ <;> simp [hp, hu]
  have hnotWriting : c.phase ≠ .writing := by
    rcases hphase with ⟨hs, hp⟩ | ⟨-, hp⟩ | ⟨-, -, hp⟩
    · rcases hs with hs | hs <;> simp [hp, hs]
    · simp [hp]
    · simp [hp]
  have hwindowed : c.phase = .windowed → s.phase = .windowed ∧ o = 0x2C := by
    rcases hphase with ⟨hs, hp⟩ | ⟨-, hp⟩ | ⟨hs, ho, -⟩
    · rcases hs with hs | hs <;> simp [hp, hs]
    · simp [hp]
    · exact fun _ => ⟨hs, ho⟩
  refine ⟨⟨fun hp => absurd hp hnotUninit, fun hl => absurd (h.resetLow (hlines ▸ hl)) hu, fun _ => hneed,
    fun o' ho' => ?_, hacc, fun hne => absurd hhalf hne, fun hp => ⟨?_, hneed⟩, fun hne => ?_, fun hp => ?_⟩,
    hnotUninit, hnotWriting, fun hp => (hwindowed hp).2, hcmd, hneed, hhalf⟩
  · rw [hcmd] at ho'
    cases ho'
  · rcases hp with hp | hp
    · rw [hwin]
      exact (h.windowHeld (.inl (hwindowed hp).1)).1
    · exact absurd hp hnotWriting
  · have hs := h.columnsBefore (hcols hne)
    rcases hphase with ⟨-, hp⟩ | ⟨hs', -⟩ | ⟨hs', -⟩
    · rwa [hp]
    · rcases hs with hs | hs <;> simp [hs] at hs'
    · rcases hs with hs | hs <;> simp [hs] at hs'
  · rw [hslp]
    refine h.awakeAfterSleepOut ?_
    rcases hphase with ⟨-, hp'⟩ | ⟨hs, -⟩ | ⟨hs, -⟩
    · rwa [hp'] at hp
    · exact .inr hs
    · exact .inr (.inl hs)

/-- A command that is owed its count of bytes, outside a window-set and a stream (R143 to R145, R148, R149). -/
theorem CommonDone.owe {o : Byte} {c : State} (h : CommonDone o c) (ho : o ≠ 0x2C) {n : Nat} (hn : 0 < n)
    (hcount : n = parameterCount o) : (owe o n c).TrackerOk := by
  have hw : ¬(c.phase = .windowed ∨ c.phase = .writing) := not_or.2 ⟨fun hp => ho (h.windowed hp), h.notWriting⟩
  refine ⟨fun hp => absurd hp h.notUninit, h.ok.resetLow, nofun, fun o' ho' => ?_, Nat.zero_le 4, h.ok.halfInStream,
    fun hp => absurd hp hw, h.ok.columnsBefore, h.ok.awakeAfterSleepOut⟩
  obtain rfl : o = o' := Option.some.inj ho'
  exact ⟨hn, by simp [hcount]⟩

theorem CommonDone.oweNothing {o : Byte} {c : State} (h : CommonDone o c) : (oweNothing c).TrackerOk := by
  refine h.ok.congr ?_
  simp only [State.trackerFields, Machine.oweNothing, h.noCommand, h.owesNone]

/-- Each command's rule keeps the invariant after the common part (R143 to R150, R154). -/
theorem commandRule_trackerOk {o : Byte} {c : State} (h : CommonDone o c) : (commandRule o c).TrackerOk := by
  have hnone := h.oweNothing
  unfold commandRule
  split_ifs
  · subst o
    exact (h.owe (by decide) (by decide) rfl).flagIf _ _
  · subst o
    exact (h.owe (by decide) (by decide) rfl).flagIf _ _
  · subst o
    exact (h.owe (by decide) (by decide) rfl).flagIf _ _
  · unfold sleepOutRule
    split
    · exact ⟨fun hp => absurd hp h.notUninit, hnone.resetLow, hnone.owesNothing, hnone.owesRest, hnone.accBound,
        hnone.halfInStream, hnone.windowHeld, hnone.columnsBefore, fun _ => rfl⟩
    · exact hnone.flag _
  · unfold displayOnRule
    split
    · rename_i hp
      exact ⟨nofun, fun hl => absurd (h.ok.resetLow hl) h.notUninit, hnone.owesNothing, hnone.owesRest, hnone.accBound,
        fun hne => absurd h.noHalf hne, nofun, fun _ => .inr rfl, fun _ => hp.2⟩
    · exact hnone.flag _
  · subst o
    exact (h.owe (by decide) (by decide) rfl).flagIf _ _
  · subst o
    unfold pageAddressRule
    split
    · exact (h.owe (by decide) (by decide) rfl).flagIf _ _
    · exact (h.owe (by decide) (by decide) rfl).flag _
  · unfold memoryWriteRule
    split
    · rename_i hp
      rw [State.flagIf_eq]
      have hcols : c.caDone = none := by
        by_contra hne
        simpa [hp] using h.ok.columnsBefore hne
      exact ⟨nofun, fun hl => absurd (h.ok.resetLow hl) h.notUninit, hnone.owesNothing, hnone.owesRest, hnone.accBound,
        fun hne => absurd rfl hne, fun _ => ⟨(h.ok.windowHeld (.inl hp)).1, rfl⟩, fun hne => absurd hcols hne,
        fun _ => h.ok.awakeAfterSleepOut (.inr (.inl hp))⟩
    · exact hnone.flag _
    all_goals exact hnone
  · exact hnone.flag _

theorem takeFrame_trackerOk (f : Frame) {s : State} (h : s.TrackerOk) : (takeFrame f s).TrackerOk := by
  unfold takeFrame
  split
  · exact takeData_trackerOk _ h
  · unfold takeCommand
    split
    · exact h.flag _
    · rename_i hu
      exact commandRule_trackerOk (commandCommon_done _ h hu)

/-- Settles O52: the tracker moves at a line write and at a closed frame only, and both keep its invariant. -/
theorem stepKeepsTheTrackerConsistent : Obligations.StepKeepsTheTrackerConsistent := by
  intro s t hs h
  exact step_keeps (P := State.TrackerOk) (fun s u hs => hs.congr rfl) (fun s k hs => hs.congr rfl)
    (fun n v s hs => lineWrite_trackerOk n v hs) (fun f s hs => takeFrame_trackerOk f hs) hs h

/-- Settles O56: at reset the block is idle, the tracker cleared, the receiver closed, GRAM empty and nothing traced. -/
theorem invariantsHoldAtReset : Obligations.InvariantsHoldAtReset :=
  ⟨rfl, ⟨fun _ => ⟨rfl, rfl, rfl, rfl, rfl, rfl, rfl, rfl, rfl, rfl⟩, fun _ => rfl, fun _ => rfl, nofun, Nat.zero_le 4,
    fun h => absurd rfl h, nofun, fun h => absurd rfl h, nofun⟩, ⟨iff_of_false nofun nofun, fun _ => rfl⟩,
    reset_gram_wf, 0, rfl⟩

end Sys2Proof.Machine
end

section
/-! PROOFS. Whole operations (41_protocol.md R120 to R132; 42_controller_commands.md R157): an accepted operation runs
its expansion, and the frames of a window-set and of a pixel are taken by the tracker in the legal order. -/

namespace Sys2Proof.Machine

theorem perform_lt (m : MicroOp) (s : State) : (perform m s).lt = s.lt ++ [m] := by
  cases m with
  | wait k => rfl
  | set n v => exact congrArg BlockView.lt (performSet_block n v s)

theorem performAll_lt : ∀ (ms : List MicroOp) (s : State), (performAll ms s).lt = s.lt ++ ms
  | [], s => by simp
  | m :: ms, s => by rw [performAll_cons, performAll_lt ms, perform_lt, List.append_assoc, List.singleton_append]

/-- Reports that reach every wait of the build serve every expansion (R18). -/
theorem served_expansion {s : State} {op : Operation} (h : op = .initDisplay → enoughReports s.delays) :
    Served (s.expansion op) s.delays := by
  cases op with
  | writeByte | writeCommand | writeData => exact served_of_no_waits rfl _
  | setAddressWindow => exact served_of_no_waits (waits_setAddressWindowOps _ _ _ _) _
  | drawPixel => exact served_of_no_waits (waits_drawPixelOps _ _ _) _
  | initDisplay =>
    obtain ⟨hcount, hreach⟩ := h rfl
    have hwaits : (s.expansion .initDisplay).filter MicroOp.isWait = _ := waits_initDisplayOps build
    refine ⟨by rw [hwaits]; exact hcount, fun r hr k hk => ?_⟩
    have hmem : MicroOp.wait k ∈ (s.expansion .initDisplay).filter MicroOp.isWait := List.mem_filter.2 ⟨hk, rfl⟩
    obtain ⟨h1, h2, h3, h4, h5⟩ := hreach r hr
    rw [hwaits] at hmem
    simp only [List.mem_cons, List.not_mem_nil, or_false, MicroOp.wait.injEq] at hmem
    rcases hmem with rfl | rfl | rfl | rfl | rfl <;> assumption

/-- Settles O57: every wait of the expansion is served, and each micro-operation performed appends its event. -/
theorem acceptedOperationRunsItsWholeExpansion : Obligations.AcceptedOperationRunsItsWholeExpansion :=
  fun s _ hc hp hd => ⟨_, runSteps_expansion hc hp (served_expansion hd), rfl, rfl, performAll_lt _ s⟩

/-! Frames in the legal order -/

theorem takeFrame_data (b : Byte) (s : State) : takeFrame ⟨true, b⟩ s = takeData b s := rfl

theorem takeFrame_command (o : Byte) {s : State} (hs : s.phase ≠ .uninit) :
    takeFrame ⟨false, o⟩ s = commandRule o (commandCommon o s) := takeCommand_of_ne_uninit o _ hs

/-- The common part with nothing owed, no half pixel and no window waiting for its memory-write (R142). -/
theorem commandCommon_quiet (o : Byte) {s : State} (hn : s.need = 0) (hh : s.half = none)
    (hw : ¬(s.phase = .windowed ∧ o ≠ 0x2C)) :
    commandCommon o s =
      { s with phase := if s.phase = .writing then .awakeIdle else s.phase
               caDone := if o = 0x2B then s.caDone else none } := by
  rw [commandFrameEndsWhatWasOpen o s]
  simp only [hw, if_false]
  simp [hn, hh]

/-- A command owed `n` bytes, in the phase `p` it is listed in once an open stream has ended. -/
theorem takeFrame_owe {o : Byte} {n : Nat} {p : Phase} {s : State}
    (hr : commandRule o = fun s => listedIn p (owe o n s)) (ho : o ≠ 0x2B) (hn : s.need = 0) (hh : s.half = none)
    (hu : s.phase ≠ .uninit) (hw : s.phase ≠ .windowed)
    (hp : (if s.phase = .writing then .awakeIdle else s.phase) = p) :
    takeFrame ⟨false, o⟩ s = { s with phase := p, cmd := some o, need := n, acc := [], caDone := none } := by
  rw [takeFrame_command o hu, hr, commandCommon_quiet o hn hh (fun h => hw h.1), if_neg ho, hp]
  simp [listedIn, State.flagIf_eq, owe]

/-- Four data bytes for a command that is owed four (R151). -/
theorem takeFrames_four (b0 b1 b2 b3 : Byte) {s u : State} (hu : s.phase ≠ .uninit) (hn : s.need = 4)
    (ha : s.acc = []) (hdone : completeCommand b3 { s with acc := [b0, b1, b2, b3], need := 0 } = u) :
    takeFrames [⟨true, b0⟩, ⟨true, b1⟩, ⟨true, b2⟩, ⟨true, b3⟩] s = { u with cmd := none } := by
  have h0 : takeData b0 s = { s with acc := [b0], need := 3 } := by
    rw [takeData_collect b0 hu (by omega), ha, hn]
    rfl
  have h1 : takeData b1 { s with acc := [b0], need := 3 } = { s with acc := [b0, b1], need := 2 } :=
    takeData_collect b1 hu (show 1 < 3 by decide)
  have h2 : takeData b2 { s with acc := [b0, b1], need := 2 } = { s with acc := [b0, b1, b2], need := 1 } :=
    takeData_collect b2 hu (show 1 < 2 by decide)
  have h3 : takeData b3 { s with acc := [b0, b1, b2], need := 1 } = { u with cmd := none } :=
    takeData_complete hu rfl hdone
  simp only [takeFrames_cons, takeFrames_nil, takeFrame_data, h0, h1, h2, h3]

theorem append_hi8_lo8 (v : Half) : (hi8 v ++ lo8 v : Half) = v := pair_hi8_lo8 v

/-- Column-address-set and its two values, in an awake controller (R148). -/
theorem takeFrames_columns (a b : Half) {s : State} (hp : s.phase = .awakeIdle ∨ s.phase = .writing)
    (hn : s.need = 0) (hh : s.half = none) :
    takeFrames (addressFrames 0x2A a b) s =
      { s with phase := .awakeIdle, cmd := none, need := 0, acc := [hi8 a, lo8 a, hi8 b, lo8 b],
               caDone := some (a, b) } := by
  have h0 : takeFrame ⟨false, 0x2A⟩ s =
      { s with phase := .awakeIdle, cmd := some 0x2A, need := 4, acc := [], caDone := none } :=
    takeFrame_owe rfl (by decide) hn hh (by rcases hp with h | h <;> simp [h]) (by rcases hp with h | h <;> simp [h])
      (by rcases hp with h | h <;> simp [h])
  rw [addressFrames, takeFrames_cons, h0]
  refine (takeFrames_four _ _ _ _ (by exact nofun) rfl rfl ((completeCommand_columns _ rfl).trans
    (completeColumns_four rfl))).trans ?_
  rw [append_hi8_lo8, append_hi8_lo8]

/-- Page-address-set and its two values, after the columns (R149). -/
theorem takeFrames_pages (cs ce a b : Half) {s : State} (hp : s.phase = .awakeIdle) (hn : s.need = 0)
    (hh : s.half = none) (hc : s.caDone = some (cs, ce)) :
    takeFrames (addressFrames 0x2B a b) s =
      { s with phase := .windowed, win := some ⟨cs, ce, a, b⟩, cmd := none, need := 0,
               acc := [hi8 a, lo8 a, hi8 b, lo8 b], caDone := none } := by
  have h0 : takeFrame ⟨false, 0x2B⟩ s = { s with cmd := some 0x2B, need := 4, acc := [] } := by
    have hcommon : commandCommon 0x2B s = s := by
      rw [commandCommon_quiet 0x2B hn hh (by simp [hp]), if_neg (by simp [hp]), if_pos rfl]
    refine (takeCommand_pages (by simp [hp])).trans ?_
    rw [hcommon]
    simp [hp, hc]
  rw [addressFrames, takeFrames_cons, h0]
  refine (takeFrames_four _ _ _ _ (by simp [hp]) rfl rfl ((completeCommand_pages _ rfl).trans
    (completePages_four (by exact hc) (by exact hp) rfl))).trans ?_
  rw [append_hi8_lo8, append_hi8_lo8]

/-- Memory-write opens the stream of a set window (R150). -/
theorem takeFrame_memoryWrite_windowed {s : State} (hp : s.phase = .windowed) (hn : s.need = 0) (hh : s.half = none)
    (hf : s.fmt16 = true) :
    takeFrame ⟨false, 0x2C⟩ s =
      { s with phase := .writing, cmd := none, need := 0, caDone := none, npix := 0, half := none } := by
  have hcommon : commandCommon 0x2C s = { s with caDone := none } := by
    rw [commandCommon_quiet 0x2C hn hh (by simp)]
    simp [hp]
  rw [takeFrame_command 0x2C (by simp [hp]), hcommon]
  refine (memoryWriteRule_windowed (by exact hp)).trans ?_
  simp [hf]

/-- The state after a window-set in the legal order: the window retained, its stream open. -/
def openedWindow (rowStart rowEnd colStart colEnd : Half) (s : State) : State :=
  { s with
    phase := .writing, win := some ⟨rowStart, rowEnd, colStart, colEnd⟩, cmd := none, need := 0
    acc := [hi8 colStart, lo8 colStart, hi8 colEnd, lo8 colEnd], caDone := none, half := none, npix := 0 }

/-- A window-set's eleven frames in the legal order (R157). -/
theorem takeFrames_window (rs re cs ce : Half) {s : State} (hp : s.phase = .awakeIdle ∨ s.phase = .writing)
    (hn : s.need = 0) (hh : s.half = none) (hf : s.fmt16 = true) :
    takeFrames (windowFrames rs re cs ce) s = openedWindow rs re cs ce s := by
  rw [windowFrames, takeFrames_append, takeFrames_append, takeFrames_cons, takeFrames_nil,
    takeFrames_columns rs re hp hn hh]
  refine (congrArg (takeFrame ⟨false, 0x2C⟩)
    (takeFrames_pages rs re cs ce (by exact rfl) (by exact rfl) (by exact hh) (by exact rfl))).trans ?_
  exact takeFrame_memoryWrite_windowed (by exact rfl) (by exact rfl) (by exact hh) (by exact hf)

/-- Settles O58: the run is the frames performed; the tracker takes them as a window-set in the legal order. -/
theorem setAddressWindowOpensItsWindow : Obligations.SetAddressWindowOpensItsWindow := by
  intro s hc hp hcs hphase hn hh hf
  have hrun := runSteps_expansion hc hp (served_expansion nofun)
  have hx : s.expansion .setAddressWindow = setAddressWindowOps s.latchA s.latchB s.latchC s.latchD := rfl
  rw [hx, setAddressWindowOps_length, setAddressWindowOps_eq, windowFrames, performAll_frames _ _ hcs, ← windowFrames,
    takeFrames_window _ _ _ _ hphase hn hh hf] at hrun
  refine ⟨_, hrun, rfl, ?_, rfl, rfl, rfl, rfl, rfl, rfl, rfl, rfl, rfl⟩
  rw [setAddressWindowOps_eq]
  rfl

/-- The two bytes of a pixel, into an open stream (R152). -/
theorem takeFrames_pixel (c : Half) {s : State} (hp : s.phase = .writing) (hn : s.need = 0) (hh : s.half = none) :
    takeFrames [⟨true, hi8 c⟩, ⟨true, lo8 c⟩] s = { storePixel c s with npix := s.npix + 1 } := by
  have h0 : takeData (hi8 c) s = { s with half := some (hi8 c) } :=
    (takeData_pixel _ hp hn).trans (takePixel_first _ hh)
  have h1 : takeData (lo8 c) { s with half := some (hi8 c) } = _ :=
    (takeData_pixel (s := { s with half := some (hi8 c) }) _ hp hn).trans (takePixel_second _ rfl)
  rw [pair_hi8_lo8] at h1
  simp only [takeFrames_cons, takeFrames_nil, takeFrame_data, h0, h1]
  simp [storePixel, hh]

/-- Settles O59: after the window-set's frames the colour's two bytes are the first pixel of the open stream. -/
theorem drawPixelWritesOnePixel : Obligations.DrawPixelWritesOnePixel := by
  intro s hc hp hcs hphase hn hh hf x y c w
  have hrun := runSteps_expansion hc hp (served_expansion nofun)
  have hx : s.expansion .drawPixel = drawPixelOps x y c := rfl
  have hframes : windowFrames y (inc16 y) x (inc16 x) ++ [⟨true, hi8 c⟩, ⟨true, lo8 c⟩] =
      (windowFrames y (inc16 y) x (inc16 x) ++ [⟨true, hi8 c⟩]) ++ [⟨true, lo8 c⟩] := by simp
  rw [hx, drawPixelOps_length, drawPixelOps_eq, hframes, performAll_frames _ _ hcs, ← hframes, takeFrames_append,
    takeFrames_window _ _ _ _ hphase hn hh hf, takeFrames_pixel c rfl rfl rfl] at hrun
  refine ⟨_, hrun, rfl, ?_, rfl, rfl, rfl, rfl, rfl, rfl, rfl, rfl, rfl⟩
  rw [drawPixelOps_eq]
  rfl
end Sys2Proof.Machine
end

section
/-! PROOFS. The initialisation performed (41_protocol.md R120 to R128): the idle levels, the reset pulse, and the
configuration frames taken by a sleeping controller. -/

namespace Sys2Proof.Machine

/-! Idle levels and the reset pulse -/

/-- A line driven high is no event while neither chip-select nor the reset line is low (R84, R141). -/
theorem perform_raise (n : Line) {s : State} (hcs : s.lines.cs ≠ some false) (hrst : s.lines.rst ≠ some false) :
    perform (.set n true) s = s.wrote n true := by
  cases n with
  | rst => exact perform_set (if_neg hrst) rfl
  | cs => exact perform_set rfl (if_neg hcs)
  | rs => exact perform_rs true s
  | data => exact perform_data true s
  | clk => exact perform_clkRise_unselected hcs
  | bl => exact perform_set rfl rfl

theorem Lines.get_put_true_ne_low {l : Lines} {m : Line} (n : Line) (h : l.get m ≠ some false) :
    (l.put n true).get m ≠ some false := by
  by_cases hmn : m = n
  · rw [hmn, Lines.get_put_same]
    exact nofun
  · rwa [Lines.get_put_other l true hmn]

theorem performAll_raise : ∀ (ns : List Line) {s : State}, s.lines.cs ≠ some false → s.lines.rst ≠ some false →
    performAll (ns.map (MicroOp.set · true)) s =
      { s with lines := ns.foldl (Lines.put · · true) s.lines, lt := s.lt ++ ns.map (MicroOp.set · true) }
  | [], s, _, _ => by simp
  | n :: ns, s, hcs, hrst => by
    rw [List.map_cons, performAll_cons, perform_raise n hcs hrst]
    have hcs' := Lines.get_put_true_ne_low (m := .cs) n hcs
    have hrst' := Lines.get_put_true_ne_low (m := .rst) n hrst
    exact (performAll_raise ns hcs' hrst').trans (by simp [State.wrote])

theorem foldl_put_get (n : Line) : ∀ (ns : List Line) (l : Lines), n ∈ ns ∨ l.get n = some true →
    (ns.foldl (Lines.put · · true) l).get n = some true
  | [], l, h => by simpa using h
  | m :: ns, l, h => by
    refine foldl_put_get n ns _ ?_
    by_cases hmn : n = m
    · exact .inr (hmn ▸ Lines.get_put_same l m true)
    · rw [Lines.get_put_other l true hmn]
      simpa [hmn] using h

/-- Every line high. -/
def Lines.allHigh : Lines := ⟨some true, some true, some true, some true, some true, some true⟩

/-- The six lines driven high in any order are all high (R121). -/
theorem foldl_put_allHigh {ns : List Line} (h : ns.Perm Line.all) (l : Lines) :
    ns.foldl (Lines.put · · true) l = Lines.allHigh := by
  have hget (n : Line) : (ns.foldl (Lines.put · · true) l).get n = some true :=
    foldl_put_get n ns l (.inl (h.mem_iff.2 (by cases n <;> decide)))
  generalize ns.foldl (Lines.put · · true) l = m at hget
  obtain ⟨rst, cs, rs, data, clk, bl⟩ := m
  obtain rfl : rst = some true := hget .rst
  obtain rfl : cs = some true := hget .cs
  obtain rfl : rs = some true := hget .rs
  obtain rfl : data = some true := hget .data
  obtain rfl : clk = some true := hget .clk
  obtain rfl : bl = some true := hget .bl
  rfl

theorem perform_rstFall {s : State} (hrst : s.lines.rst ≠ some false) :
    perform (.set .rst false) s = (resetFall s).wrote .rst false := by
  simp only [perform, performSet, lineWrite_rst, trackReset, if_pos hrst]

theorem perform_rstRise {s : State} (hrst : s.lines.rst = some false) (hp : s.phase = .uninit) :
    perform (.set .rst true) s = State.wrote { s with phase := .sleeping } .rst true := by
  simp only [perform, performSet, lineWrite_rst, trackReset, if_pos hrst, resetRise, if_pos hp]

/-- The state after the reset pulse of the initialisation: a sleeping controller that has kept nothing, and the lines
high. GRAM, the line trace, the reports and the number of the pulse are not spoken of. -/
def released (s : State) (g : Memory) (lt : List MicroOp) (delays : List Nat) (resets : Nat) : State :=
  { s with
    phase := .sleeping, win := none, mac := none, cmd := none, need := 0, acc := [], caDone := none
    slpout := false, fmt16 := false, half := none, npix := 0
    gram := g, lines := Lines.allHigh, lt := lt, delays := delays, resets := resets }

/-- The lines high, the line trace as given (R121). -/
def idleLevels (s : State) (lt : List MicroOp) : State := { s with lines := Lines.allHigh, lt := lt }

/-- Step 2 of the initialisation (R122). -/
theorem performAll_resetPulse (k0 k1 k2 k3 : Nat) (s : State) (l : List MicroOp) :
    ∃ g lt ds r, performAll [.wait k0, .set .rst true, .wait k1, .set .rst false, .wait k2, .set .rst true, .wait k3]
      (idleLevels s l) = released s g lt ds r := by
  have hhigh : perform (.set .rst true) (perform (.wait k0) (idleLevels s l)) = _ := perform_raise .rst nofun nofun
  have hfall : perform (.set .rst false) (perform (.wait k1) ((perform (.wait k0) (idleLevels s l)).wrote .rst true)) =
      _ := perform_rstFall nofun
  have hrise : perform (.set .rst true) (perform (.wait k2) ((resetFall (perform (.wait k1)
      ((perform (.wait k0) (idleLevels s l)).wrote .rst true))).wrote .rst false)) = _ := perform_rstRise rfl rfl
  simp only [performAll_cons, performAll_nil, hhigh, hfall, hrise]
  exact ⟨_, _, _, _, rfl⟩

/-- Steps 1 and 2 of the initialisation (R121, R122). -/
theorem performAll_initPulse {p : Config.Params} (hp : p.lineOrder.Perm Line.all) {s : State}
    (hcs : s.lines.cs ≠ some false) (hrst : s.lines.rst ≠ some false) :
    ∃ g lt ds r, performAll (p.lineOrder.map (MicroOp.set · true) ++
        [.wait p.tStab, .set .rst true, .wait p.tPre, .set .rst false, .wait p.tRstLow, .set .rst true,
          .wait p.tRstPost]) s = released s g lt ds r := by
  rw [performAll_append, performAll_raise _ hcs hrst, foldl_put_allHigh hp]
  exact performAll_resetPulse _ _ _ _ s _

/-! The configuration frames -/

theorem takeData_one (b : Byte) {s u : State} (hu : s.phase ≠ .uninit) (hn : s.need = 1) (ha : s.acc = [])
    (hdone : completeCommand b { s with acc := [b], need := 0 } = u) : takeData b s = { u with cmd := none } := by
  refine takeData_complete hu hn ?_
  rw [← hdone, lastByte, ha]
  rfl

section
variable {s : State} (hp : s.phase = .sleeping) (hn : s.need = 0) (hh : s.half = none)
include hp hn hh

theorem takeFrame_owe_sleeping {o : Byte} {n : Nat} (hr : commandRule o = fun s => listedIn .sleeping (owe o n s))
    (ho : o ≠ 0x2B) :
    takeFrame ⟨false, o⟩ s = { s with cmd := some o, need := n, acc := [], caDone := none } :=
  (takeFrame_owe hr ho hn hh (by simp [hp]) (by simp [hp]) (by simp [hp])).trans (by simp [hp])

theorem commandCommon_sleeping {o : Byte} (ho : o ≠ 0x2B) : commandCommon o s = { s with caDone := none } := by
  rw [commandCommon_quiet o hn hh (by simp [hp]), if_neg (by simp [hp]), if_neg ho]

theorem takeFrames_vcom (h l : Byte) :
    takeFrames [⟨false, 0xC5⟩, ⟨true, h⟩, ⟨true, l⟩] s =
      { s with cmd := none, need := 0, acc := [h, l], caDone := none } := by
  rw [takeFrames_cons, takeFrame_owe_sleeping hp hn hh rfl (by decide), takeFrames_cons, takeFrames_cons,
    takeFrames_nil, takeFrame_data, takeFrame_data]
  refine (congrArg (takeData l) (takeData_collect h (by simp [hp]) (by exact Nat.one_lt_two))).trans ?_
  exact takeData_complete (by simp [hp]) rfl (completeCommand_vcom l rfl)

theorem takeFrames_memoryAccess (m : Byte) :
    takeFrames [⟨false, 0x36⟩, ⟨true, m⟩] s =
      { s with cmd := none, need := 0, acc := [m], caDone := none, mac := some m } := by
  rw [takeFrames_cons, takeFrame_owe_sleeping hp hn hh rfl (by decide), takeFrames_cons, takeFrames_nil, takeFrame_data]
  exact takeData_one m (by simp [hp]) rfl rfl (completeCommand_mac m rfl)

theorem takeFrames_pixelFormat :
    takeFrames [⟨false, 0x3A⟩, ⟨true, 0x55⟩] s =
      { s with cmd := none, need := 0, acc := [0x55], caDone := none, fmt16 := true } := by
  rw [takeFrames_cons, takeFrame_owe_sleeping hp hn hh rfl (by decide), takeFrames_cons, takeFrames_nil, takeFrame_data]
  exact takeData_one 0x55 (by simp [hp]) rfl rfl (completeCommand_format 0x55 rfl)

theorem takeFrame_sleepOut :
    takeFrame ⟨false, 0x11⟩ s = { s with cmd := none, need := 0, caDone := none, slpout := true } := by
  rw [takeFrame_command 0x11 (by simp [hp]), commandCommon_sleeping hp hn hh (by decide)]
  exact if_pos hp

theorem takeFrame_displayOn (hs : s.slpout = true) :
    takeFrame ⟨false, 0x29⟩ s = { s with cmd := none, need := 0, caDone := none, phase := .awakeIdle } := by
  rw [takeFrame_command 0x29 (by simp [hp]), commandCommon_sleeping hp hn hh (by decide)]
  exact if_pos ⟨hp, hs⟩

end

theorem takeFrame_memoryWrite_awakeIdle {s : State} (hp : s.phase = .awakeIdle) (hn : s.need = 0)
    (hh : s.half = none) : takeFrame ⟨false, 0x2C⟩ s = { s with cmd := none, need := 0, caDone := none } := by
  rw [takeFrame_command 0x2C (by simp [hp]), commandCommon_quiet 0x2C hn hh (by simp), if_neg (by simp [hp]),
    if_neg (by decide)]
  exact memoryWriteRule_awakeIdle (by exact hp)

/-- The frames of steps 3 to 6 of the initialisation (R123 to R126). -/
def configFrames (p : Config.Params) : List Frame :=
  [⟨false, 0xC5⟩, ⟨true, p.vcomH⟩, ⟨true, p.vcomL⟩] ++ [⟨false, 0x36⟩, ⟨true, p.madctl⟩] ++
    [⟨false, 0x3A⟩, ⟨true, 0x55⟩] ++ [⟨false, 0x11⟩]

/-- The configuration frames, taken by a sleeping controller. -/
theorem takeFrames_config (p : Config.Params) {s : State} (hp : s.phase = .sleeping) (hn : s.need = 0)
    (hh : s.half = none) :
    takeFrames (configFrames p) s =
      { s with cmd := none, need := 0, acc := [0x55], caDone := none, mac := some p.madctl, fmt16 := true,
               slpout := true } := by
  simp only [configFrames, takeFrames_append]
  rw [takeFrames_vcom hp hn hh, takeFrames_memoryAccess, takeFrames_pixelFormat, takeFrames_cons, takeFrames_nil,
    takeFrame_sleepOut]
  all_goals simp only [hp, hh]

/-! The whole operation -/

/-- An awake, configured controller that has received the frames `fs` since `s`, the data line left at `d` (R127,
R128). -/
structure Configured (p : Config.Params) (fs : List Frame) (d : Level) (s t : State) : Prop where
  phase : t.phase = .awakeIdle
  fmt16 : t.fmt16 = true
  slpout : t.slpout = true
  mac : t.mac = some p.madctl
  win : t.win = s.win
  need : t.need = 0
  half : t.half = none
  viol : t.viol = s.viol
  ft : t.ft = s.ft ++ fs
  lines : t.lines = { s.lines with cs := some true, rs := some false, data := some d, clk := some true }

/-- Steps 3 to 7 of the initialisation, the controller sleeping (R123 to R127). -/
theorem performAll_configure (p : Config.Params) {s : State} (hp : s.phase = .sleeping) (hn : s.need = 0)
    (hh : s.half = none) (hcs : s.lines.cs ≠ some false) :
    Configured p (configFrames p ++ [⟨false, 0x29⟩]) true s
      (performAll ((configFrames p).flatMap frameOps ++ [.wait p.tSlpOut] ++ frameOps ⟨false, 0x29⟩) s) := by
  rw [performAll_append, performAll_append, configFrames, performAll_frames _ _ hcs, ← configFrames,
    takeFrames_config p hp hn hh, performAll_cons, performAll_nil, performAll_frameOps, takeFrame_displayOn]
  · exact ⟨rfl, rfl, rfl, rfl, rfl, rfl, hh, rfl, List.append_assoc .., rfl⟩
  · exact hp
  · rfl
  · exact hh
  · rfl
  · exact nofun

/-- Step 8 of the initialisation: the eager memory-write finds no window and changes nothing of what is configured
(R128). -/
theorem Configured.memoryWrite {p : Config.Params} {fs : List Frame} {d : Level} {s t : State}
    (h : Configured p fs d s t) :
    Configured p (fs ++ [⟨false, 0x2C⟩]) false s (performAll (frameOps ⟨false, 0x2C⟩) t) := by
  have hcs : t.lines.cs ≠ some false := by simp [h.lines]
  rw [performAll_frameOps _ hcs,
    takeFrame_memoryWrite_awakeIdle (s := delivered ⟨false, 0x2C⟩ t) h.phase h.need h.half]
  refine ⟨h.phase, h.fmt16, h.slpout, h.mac, h.win, rfl, h.half, h.viol, ?_, ?_⟩
  · simp [delivered, h.ft]
  · simp [delivered, h.lines]

/-- Steps 3 to 8 of the initialisation (R123 to R128). -/
theorem performAll_initFrames (p : Config.Params) {s : State} (hp : s.phase = .sleeping) (hn : s.need = 0)
    (hh : s.half = none) (hcs : s.lines.cs ≠ some false) :
    Configured p (configFrames p ++ [⟨false, 0x29⟩] ++ if p.eagerRamwr then [⟨false, 0x2C⟩] else []) (!p.eagerRamwr) s
      (performAll ((configFrames p).flatMap frameOps ++ [.wait p.tSlpOut] ++ frameOps ⟨false, 0x29⟩ ++
        if p.eagerRamwr then frameOps ⟨false, 0x2C⟩ else []) s) := by
  have h := performAll_configure p hp hn hh hcs
  rw [performAll_append]
  cases p.eagerRamwr with
  | false => simpa using h
  | true => exact h.memoryWrite

/-- The initialisation performed: the pulse leaves a sleeping controller, which takes the configuration frames. -/
theorem performAll_initDisplayOps {p : Config.Params} (hp : p.lineOrder.Perm Line.all) {s : State}
    (hcs : s.lines.cs ≠ some false) (hrst : s.lines.rst ≠ some false) :
    ∃ g lt ds r, Configured p (configFrames p ++ [⟨false, 0x29⟩] ++ if p.eagerRamwr then [⟨false, 0x2C⟩] else [])
      (!p.eagerRamwr) (released s g lt ds r) (performAll (initDisplayOps p) s) := by
  obtain ⟨g, lt, ds, r, hpulse⟩ := performAll_initPulse hp hcs hrst
  refine ⟨g, lt, ds, r, ?_⟩
  rw [initDisplayOps_eq, performAll_append, hpulse]
  exact performAll_initFrames p rfl rfl rfl nofun

/-- Settles O60: the run is the expansion performed, and each field is one of a configured controller's. -/
theorem initializeWakesTheController : Obligations.InitializeWakesTheController := by
  intro s hc hp hcs hrst hd
  obtain ⟨g, lt, ds, r, h⟩ := performAll_initDisplayOps (p := build) (pickOrder_perm _ _) hcs hrst
  refine ⟨_, runSteps_expansion hc hp (served_expansion fun _ => hd), rfl, performAll_lt _ s, ?_, h.phase, h.fmt16,
    h.slpout, h.mac, h.win, h.need, h.half, h.viol, h.lines⟩
  exact h.ft.trans (List.append_assoc _ _ _).symm

end Sys2Proof.Machine
end
